-- ==== Sys2Proof/Word.lean ====
section
/-! DEFINITION. The words of VLE-CORE: bytes, 64-bit values, the 80-bit byte vectors, and the two 150-bit
records of the ports, each held as its fields (30_encoding.md R48, R50). -/

namespace Sys2Proof

/-- One byte of an encoded integer: bits 6..0 payload, bit 7 continuation flag (00_scope.md R6). -/
abbrev Byte := BitVec 8

/-- A 64-bit pattern, the value width `W` (00_scope.md R5). -/
abbrev U64 := BitVec 64

/-- A byte vector of ten lanes; lane `k` is bits `[8k+7:8k]` (20_memory.md R36). -/
abbrev Lanes := BitVec 80

/-- The command word of 30_encoding.md R48, by its fields. -/
structure Cmd where
  op      : BitVec 2
  inAvail : BitVec 4
  value   : U64
  inBytes : Lanes
  deriving DecidableEq, Repr, Inhabited

/-- The response word of 30_encoding.md R50, by its fields. -/
structure Resp where
  status : BitVec 2
  len    : BitVec 4
  value  : U64
  bytes  : Lanes
  deriving DecidableEq, Repr, Inhabited

/-- Where the block is in its operation cycle (10_state.md R16); its 2-bit encoding is not architectural. -/
inductive Phase where
  | idle | busy | done
  deriving DecidableEq, Repr, Inhabited

/-- The outcomes a response reports (60_exceptions.md R89). Code 3 is reserved and has no constructor. -/
inductive Status where
  | ok | incomplete | malformed
  deriving DecidableEq, Repr

end Sys2Proof
end

