-- ==== Sys2Proof/Config.lean ====
section
/-! DEFINITION. What an implementation of VLE-CORE fixes (00_scope.md R5) and the free values of the model.

The parameter `P_TENTH` is a value of `TenthPolicy` and the parameter `P_LAT` a list of counts; both are
carried by State (log 1, log 2), which is the only argument a step has, so every statement about every state
holds for every setting of both. -/

namespace Sys2Proof

/-- `P_TENTH` (41_varint_decoder.md R74): what a decode does with a tenth byte whose payload bits 6..1 are
not all zero. -/
inductive TenthPolicy where
  | malformed | truncate
  deriving DecidableEq, Repr

/-- The default setting of `P_TENTH` (00_scope.md R5). -/
def Config.defaultTenth : TenthPolicy := .malformed

/-- Free value (10_state.md R30, log 7): the phase of a block that no reset has reached yet. -/
opaque Config.undefinedPhase : Nat → Phase

/-- Free value (10_state.md R30, log 7): `CMDQ` of a block that no reset has reached yet. -/
opaque Config.undefinedCmdq : Nat → Cmd

/-- Free value (10_state.md R30, log 7): `RESP` of a block that no reset has reached yet. -/
opaque Config.undefinedResp : Nat → Resp

end Sys2Proof
end

