-- ==== Sys2Proof/Machine/State.lean ====
section
/-! DEFINITION. The state of one VLE-CORE block, the reasons a step can stop, and the state right after
reset (10_state.md R16, R18, R29, R30). -/

namespace Sys2Proof.Machine

/-- The block's input ports at one rising edge of `clk` (10_state.md R18). -/
structure PortIn where
  /-- `rst`. -/
  rst       : Bool
  /-- `cmd_valid`. -/
  cmdValid  : Bool
  /-- The four command ports; `none` says that they change during this edge, so that they carry no defined
  command (70_reset_and_hazards.md R108, 93_implementation_defined.md item 16, log 8). -/
  cmd       : Option Cmd
  /-- `resp_ready`. -/
  respReady : Bool
  deriving DecidableEq, Repr

/-- An edge at which the host does nothing (log 3). -/
def PortIn.quiet : PortIn := { rst := false, cmdValid := false, cmd := some ⟨0#2, 0#4, 0#64, 0#80⟩, respReady := false }

/-- One block with the inputs to come. `phase`, `cmdq` and `resp` are the spec's whole state (10_state.md
R16); the other fields are the model's own (INVENTORY.md). -/
structure State where
  /-- Where the block is in the operation cycle (10_state.md R16). -/
  phase    : Phase
  /-- `CMDQ`, the command accepted and not yet completed (10_state.md R16). -/
  cmdq     : Cmd
  /-- `RESP`, the response of the last completed command (10_state.md R16). -/
  resp     : Resp
  /-- In BUSY, the edges still to come before the one that performs COMPLETE (10_state.md R25, log 2). -/
  wait     : Nat
  /-- `P_TENTH`, never written by any step (00_scope.md R5, log 1). -/
  pTenth   : TenthPolicy
  /-- `P_LAT` of the commands still to be accepted, each less 1; past its end `P_LAT` is 1 (log 2). -/
  pLat     : List Nat
  /-- Whether the host has applied reset since power-up (10_state.md R30, log 7). -/
  wasReset : Bool
  /-- How many times an undefined power-up state was drawn (log 7). -/
  draws    : Nat
  /-- The input ports at the edges to come, the next one first; past its end the host does nothing (log 3). -/
  edges    : List PortIn
  deriving DecidableEq, Repr

/-- VLE-CORE has no fault: no condition is a trap, every outcome of an operation is a response
(60_exceptions.md R88), so the type has no constructor (log 14). -/
inductive Fault where
  deriving DecidableEq, Repr

/-- Why a step gives no next state. -/
inductive Refusal where
  /-- Raised by `exec` for an instruction that has no meaning yet. Safe. No arm raises it. -/
  | notModelled (mnemonic : String)
  /-- Raised at an edge with `cmd_valid` = 1 before the first reset (10_state.md R30,
  93_implementation_defined.md item 11: "the model refuses commands"). Safe. -/
  | commandBeforeReset
  /-- Raised at an ACCEPT edge whose command ports are not stable (70_reset_and_hazards.md R108,
  93_implementation_defined.md item 16: "refuse"). Safe. -/
  | unstableCommand
  deriving DecidableEq, Repr

/-- The block right after reset (10_state.md R29, 70_reset_and_hazards.md R104): in IDLE, with nothing
presented. `CMDQ` and `RESP` are unspecified there; zero is the model's choice (log 4, log 5). -/
def State.reset : State :=
  { phase := .idle
    cmdq := ⟨0#2, 0#4, 0#64, 0#80⟩
    resp := ⟨0#2, 0#4, 0#64, 0#80⟩
    wait := 0
    pTenth := Config.defaultTenth
    pLat := []
    wasReset := true
    draws := 0
    edges := [] }

end Sys2Proof.Machine
end

