-- ==== Sys2Proof/Machine/Flags.lean ====
section
/-! DEFINITION. VLE-CORE has no flags (10_state.md R16); the one outcome indicator is `resp.status`, whose
codes stand here (60_exceptions.md R89). -/

namespace Sys2Proof.Machine

/-- The code of a status in `resp.status`: OK 0, INCOMPLETE 1, MALFORMED 2; 3 is never produced
(60_exceptions.md R89). -/
def statusCode : Status → BitVec 2
  | .ok => 0#2
  | .incomplete => 1#2
  | .malformed => 2#2

end Sys2Proof.Machine
end

