-- ==== Sys2Proof/Syntax.lean ====
section
/-! DEFINITION. The four operations of VLE-CORE with the operands each uses (30_encoding.md R52, R56;
spec/opcode_table.json, column operands_used). -/

namespace Sys2Proof

/-- One command, as the operation it selects and the operands that operation uses. The fields it ignores
(30_encoding.md R54) are no part of it. -/
inductive Instr where
  /-- `ENCU`: encode the `u64` `value` (40_varint_encoder.md R65). -/
  | encu (value : U64)
  /-- `ENCS`: encode the `i64` whose pattern is `value` (42_zig_zag.md R86). -/
  | encs (value : U64)
  /-- `DECU`: decode an unsigned integer from the window (41_varint_decoder.md R78). -/
  | decu (inBytes : Lanes) (inAvail : Nat)
  /-- `DECS`: decode a signed integer from the window (42_zig_zag.md R87). -/
  | decs (inBytes : Lanes) (inAvail : Nat)
  deriving DecidableEq, Repr

end Sys2Proof
end

