-- ==== Sys2Proof/WellFormed.lean ====
section
/-! DEFINITION. Which instructions a command word can hold. -/

namespace Sys2Proof

/-- `in_avail` is a field of 4 bits (30_encoding.md R48, R49): the counts 0 to 15, all of them defined.
Every other operand's width is in its type, and no word is illegal (R55). -/
def Instr.wellFormed : Instr → Bool
  | .encu _ => true
  | .encs _ => true
  | .decu _ inAvail => decide (inAvail < 16)
  | .decs _ inAvail => decide (inAvail < 16)

end Sys2Proof
end

