-- ==== Sys2Proof/Decode.lean ====
section
/-! DEFINITION. Byte lanes, the 150-bit command and response words, the decoder, the encoder, and the
assembler listings of the spec (20_memory.md R36; 30_encoding.md R48, R50, R52, R57, R58). -/

namespace Sys2Proof

/-- Byte `k` of a byte vector: bits `[8k+7:8k]` (20_memory.md R36, 00_scope.md R9). -/
def lane (b : Lanes) (k : Nat) : Byte := b.extractLsb' (8 * k) 8

/-- A byte sequence laid into the lanes from lane 0; lanes past its end hold `0x00`, and bytes past lane 9
have no lane (20_memory.md R36, R37). -/
def packLanes : List Byte → Lanes
  | [] => 0#80
  | b :: bs => (packLanes bs <<< 8) ||| b.setWidth 80

/-- The command word: `op[1:0]`, `in_avail[5:2]`, `value[69:6]`, `in_bytes[149:70]` (30_encoding.md R48;
95_test_vectors.md section 2.5: `op | in_avail << 2 | value << 6 | in_bytes << 70`). -/
def Cmd.word (c : Cmd) : BitVec 150 :=
  c.op.setWidth 150 ||| (c.inAvail.setWidth 150 <<< 2) ||| (c.value.setWidth 150 <<< 6) |||
    (c.inBytes.setWidth 150 <<< 70)

/-- The fields of a command word (30_encoding.md R48). -/
def Cmd.ofWord (w : BitVec 150) : Cmd :=
  { op := w.extractLsb' 0 2, inAvail := w.extractLsb' 2 4, value := w.extractLsb' 6 64,
    inBytes := w.extractLsb' 70 80 }

/-- The response word: `status[1:0]`, `len[5:2]`, `value[69:6]`, `bytes[149:70]` (30_encoding.md R50). -/
def Resp.word (r : Resp) : BitVec 150 :=
  r.status.setWidth 150 ||| (r.len.setWidth 150 <<< 2) ||| (r.value.setWidth 150 <<< 6) |||
    (r.bytes.setWidth 150 <<< 70)

/-- The fields of a response word (30_encoding.md R50). -/
def Resp.ofWord (w : BitVec 150) : Resp :=
  { status := w.extractLsb' 0 2, len := w.extractLsb' 2 4, value := w.extractLsb' 6 64,
    bytes := w.extractLsb' 70 80 }

/-- The operation a command selects and the operands it uses (30_encoding.md R52, R53). Total: no command
word is illegal (R55), and the fields the operation does not use have no effect (R54). -/
def decode (c : Cmd) : Instr :=
  if c.op = 0b00#2 then .encu c.value
  else if c.op = 0b01#2 then .encs c.value
  else if c.op = 0b10#2 then .decu c.inBytes c.inAvail.toNat
  else .decs c.inBytes c.inAvail.toNat

/-- Why a number is not read as a command. -/
inductive DecodeError where
  /-- The number has a bit above bit 149, so it is no 150-bit command word (30_encoding.md R48). -/
  | notACommandWord
  deriving DecidableEq, Repr

/-- The decoder on any number: bit 0 of the number is bit 0 of the command word. -/
def decodeWord (w : Nat) : Except DecodeError Instr :=
  if w < 2 ^ 150 then .ok (decode (Cmd.ofWord (BitVec.ofNat 150 w))) else .error .notACommandWord

/-- The operation code of an instruction (30_encoding.md R52). -/
def Instr.op : Instr → BitVec 2
  | .encu _ => 0b00#2
  | .encs _ => 0b01#2
  | .decu _ _ => 0b10#2
  | .decs _ _ => 0b11#2

/-- The command of an instruction. A field the instruction has no operand for is 0 (30_encoding.md R57). -/
def encode : Instr → Cmd
  | .encu v => { op := 0b00#2, inAvail := 0#4, value := v, inBytes := 0#80 }
  | .encs v => { op := 0b01#2, inAvail := 0#4, value := v, inBytes := 0#80 }
  | .decu b a => { op := 0b10#2, inAvail := BitVec.ofNat 4 a, value := 0#64, inBytes := b }
  | .decs b a => { op := 0b11#2, inAvail := BitVec.ofNat 4 a, value := 0#64, inBytes := b }

/-- The 150-bit command word of an instruction. -/
def encodeWord (i : Instr) : BitVec 150 := (encode i).word

/-- The instruction the decoder reads from a word of `nbits` bits numbered as spec/opcode_table.json numbers
them, every bit above `nbits` being 0 (log 11). -/
def decodeTableWord (nbits w : Nat) : Option Instr :=
  match decodeWord (w % 2 ^ nbits) with
  | .ok i => some i
  | .error _ => none

/-- A command listing (30_encoding.md R57). An omitted `avail` is `none` (R58). -/
inductive Listing where
  | encu (value : U64)
  | encs (value : Int)
  | decu (bytes : List Byte) (avail : Option Nat)
  | decs (bytes : List Byte) (avail : Option Nat)
  deriving DecidableEq, Repr

/-- The `avail` of a listing: as written, or the number of bytes listed, capped at 10 (30_encoding.md R58). -/
def listedAvail (bytes : List Byte) (avail : Option Nat) : Nat := avail.getD (min bytes.length 10)

/-- The instruction a listing stands for (30_encoding.md R57): `u64(value)` for a signed value
(00_scope.md R8), and the listed bytes in lanes 0, 1, … with the rest 0. -/
def Listing.instr : Listing → Instr
  | .encu v => .encu v
  | .encs s => .encs (BitVec.ofInt 64 s)
  | .decu bs a => .decu (packLanes bs) (listedAvail bs a)
  | .decs bs a => .decs (packLanes bs) (listedAvail bs a)

/-- The command of a listing; a field the syntax does not give is 0 (30_encoding.md R57). -/
def Listing.assemble (l : Listing) : Cmd := encode l.instr

/-- `encode_unsigned v` (30_encoding.md R58). -/
def Listing.encodeUnsigned (v : U64) : Listing := .encu v
/-- `encode_signed v` (30_encoding.md R58). -/
def Listing.encodeSigned (v : Int) : Listing := .encs v
/-- `decode_unsigned [bytes], a` (30_encoding.md R58). -/
def Listing.decodeUnsigned (bytes : List Byte) (a : Nat) : Listing := .decu bytes (some a)
/-- `decode_signed [bytes], a` (30_encoding.md R58). -/
def Listing.decodeSigned (bytes : List Byte) (a : Nat) : Listing := .decs bytes (some a)

end Sys2Proof
end

