-- ==== Sys2Proof/Machine/Operands.lean ====
section
/-! DEFINITION. How an operation reads its operands: the window and its count, and the two fields of an
encoded byte (30_encoding.md R46, R49, R56). -/

namespace Sys2Proof.Machine

/-- `MAXLEN`, the most bytes an encoded integer has (00_scope.md R5). -/
def maxLen : Nat := 10

/-- The window bytes a decode may read: `min(in_avail, 10)` (30_encoding.md R49). -/
def availBytes (inAvail : Nat) : Nat := min inAvail maxLen

/-- The payload chunk of an encoded byte: bits 6..0 (30_encoding.md R46). -/
def payload (b : Byte) : BitVec 7 := b.extractLsb' 0 7

/-- Whether a byte is a terminator byte: bit 7 is 0 (30_encoding.md R46, decision D1). -/
def isTerminator (b : Byte) : Bool := !b.getLsbD 7

/-- Whether payload bits 6..1 are not all zero; in the tenth byte they stand for value bits 69..64, which do
not exist (20_memory.md R34, 41_varint_decoder.md R74). -/
def hasHighPayload (b : Byte) : Bool := b.extractLsb' 1 6 != 0#6

end Sys2Proof.Machine
end

