-- ==== Sys2Proof/Machine/Ops.lean ====
section
/-! DEFINITION. The named operations on the block's state: the transitions of 10_state.md R31, the output
ports, and the schedule of inputs. There is no exception to take and none to return from (60_exceptions.md
R93, R94): an error ends an operation through `respond`, as every other outcome does. -/

namespace Sys2Proof.Machine

/-- The input ports at the next edge (10_state.md R18, log 3). -/
def nextEdge (s : State) : PortIn := s.edges.headD PortIn.quiet

/-- The state with the next edge's inputs used up. -/
def dropEdge (s : State) : State := { s with edges := s.edges.tail }

/-- ACCEPT (10_state.md R23): the whole command is captured and the block is BUSY. `P_LAT` of this command
is fixed here (R25, log 2). -/
def accept (c : Cmd) (s : State) : State :=
  { s with cmdq := c, phase := .busy, wait := s.pLat.headD 0, pLat := s.pLat.tail }

/-- An edge in BUSY before the `P_LAT`-th one (10_state.md R25). -/
def countDown (s : State) : State := { s with wait := s.wait - 1 }

/-- The writes of COMPLETE (10_state.md R25): the response, whatever its status, and the phase. Every
operation ends here (60_exceptions.md R88). -/
def respond (r : Resp) (s : State) : Host.Outcome State Fault Refusal :=
  .next { s with resp := r, phase := .done }

/-- RELEASE (10_state.md R26): `RESP` keeps its value. -/
def release (s : State) : State := { s with phase := .idle }

/-- RESET (10_state.md R28): no other element of the spec's state is written (log 6). -/
def applyReset (s : State) : State := { s with phase := .idle, wasReset := true }

/-- An edge before the first reset leaves the spec's state undefined (10_state.md R30, log 7): free values.
DESIGN CHOICE (log 18, unsafe): how the undefined values of two blocks relate is left open by R30 and R101;
here the values are one opaque function of the block's own counter `draws`, so two blocks not reset yet with
equal counters draw equal values. -/
def drawUndefined (s : State) : State :=
  { s with phase := Config.undefinedPhase s.draws, cmdq := Config.undefinedCmdq s.draws,
           resp := Config.undefinedResp s.draws, draws := s.draws + 1 }

/-- The output `cmd_ready` (10_state.md R20). -/
def cmdReady (s : State) : Bool := s.phase == .idle

/-- The output `resp_valid` (10_state.md R21). -/
def respValid (s : State) : Bool := s.phase == .done

/-- The response ports: the fields of `RESP` while `resp_valid` = 1, no value otherwise (10_state.md R22,
log 9). -/
def respPorts (s : State) : Option Resp := if respValid s then some s.resp else none

/-- Whether the host has more commands: an edge to come presents one (10_state.md R31, log 19). -/
def hostHasCommands (s : State) : Bool := s.edges.any (fun p => p.cmdValid)

/-- A state that is final for a host program: the phase is IDLE and the host has no more commands
(10_state.md R31). A run is not over in BUSY, nor in DONE before the host has taken the response. -/
def isFinal (s : State) : Bool := s.phase == .idle && !hostHasCommands s

end Sys2Proof.Machine
end

