-- ==== Sys2Proof/Machine/VarintDecoder.lean ====
section
/-! DEFINITION. The `varint_decoder` sub-block and `DECU` (41_varint_decoder.md). -/

namespace Sys2Proof.Machine

/-- The outputs of `varint_decoder` (41_varint_decoder.md R67). -/
structure Decoded where
  status : Status
  value  : U64
  len    : Nat
  deriving DecidableEq, Repr

/-- The loop of `DecU` (41_varint_decoder.md R69) from lane `k` on with the accumulator `acc`; `a` is the
number of bytes it may read. The first argument is the number of lanes left, `10 - k`. -/
def decLoop (policy : TenthPolicy) (b : Lanes) (a : Nat) : Nat → Nat → U64 → Decoded
  | 0, _, _ => { status := .malformed, value := 0#64, len := maxLen }
  | left + 1, k, acc =>
    if k = a then { status := .incomplete, value := 0#64, len := a }
    else if isTerminator (lane b k) then
      if k = 9 ∧ hasHighPayload (lane b k) ∧ policy = .malformed then
        { status := .malformed, value := 0#64, len := maxLen }
      else
        { status := .ok, value := acc ||| ((payload (lane b k)).setWidth 64 <<< (7 * k)), len := k + 1 }
    else decLoop policy b a left (k + 1) (acc ||| ((payload (lane b k)).setWidth 64 <<< (7 * k)))

/-- `DecU` (41_varint_decoder.md R69) under a setting of `P_TENTH`. -/
def decU (policy : TenthPolicy) (b : Lanes) (avail : Nat) : Decoded :=
  decLoop policy b (availBytes avail) maxLen 0 0#64

/-- The response of a decode that ends with `d` and the value `v` (30_encoding.md R51): no bytes. -/
def decodeResp (d : Decoded) (v : U64) : Resp :=
  { status := statusCode d.status, len := BitVec.ofNat 4 d.len, value := v, bytes := 0#80 }

/-- `DECU` (41_varint_decoder.md R78). -/
def execDecu (inBytes : Lanes) (inAvail : Nat) (s : State) : Host.Outcome State Fault Refusal :=
  respond (decodeResp (decU s.pTenth inBytes inAvail) (decU s.pTenth inBytes inAvail).value) s

end Sys2Proof.Machine
end

