-- ==== Sys2Proof/Machine/VarintEncoder.lean ====
section
/-! DEFINITION. The `varint_encoder` sub-block and `ENCU` (40_varint_encoder.md). -/

namespace Sys2Proof.Machine

/-- The loop of `EncU` (40_varint_encoder.md R60): one byte with the continuation bit set for the low 7 bits
of the remaining value, until nothing remains. The first argument bounds the rounds. -/
def emitLoop : Nat → U64 → List Byte
  | 0, _ => []
  | rounds + 1, r =>
    (0x80#8 ||| (payload (r.setWidth 8)).setWidth 8) ::
      (if r >>> 7 = 0#64 then [] else emitLoop rounds (r >>> 7))

/-- The last step of `EncU` (40_varint_encoder.md R60): the continuation bit of the last byte is cleared. -/
def clearLast : List Byte → List Byte
  | [] => []
  | [b] => [b &&& 0x7F#8]
  | b :: c :: bs => b :: clearLast (c :: bs)

/-- `EncU` (40_varint_encoder.md R60): the encoding of `u`, byte 0 first. A 64-bit value has at most ten
groups of 7 bits (R64), so ten rounds always end the loop. -/
def encU (u : U64) : List Byte := clearLast (emitLoop maxLen u)

/-- The response of an encode of `u` (30_encoding.md R51): lanes past the encoding are `0x00`. -/
def encodeResp (u : U64) : Resp :=
  { status := statusCode .ok, len := BitVec.ofNat 4 (encU u).length, value := u, bytes := packLanes (encU u) }

/-- `ENCU` (40_varint_encoder.md R65). -/
def execEncu (value : U64) (s : State) : Host.Outcome State Fault Refusal :=
  respond (encodeResp value) s

end Sys2Proof.Machine
end

