-- ==== Sys2Proof/Machine/ZigZag.lean ====
section
/-! DEFINITION. The `zig_zag_transform` sub-block, `ENCS` and `DECS` (42_zig_zag.md). -/

namespace Sys2Proof.Machine

/-- `ZZ`, the forward transform (42_zig_zag.md R80). -/
def zz (x : U64) : U64 := if x.getLsbD 63 then ~~~(x <<< 1) else x <<< 1

/-- `UnZZ`, the inverse transform (42_zig_zag.md R82). -/
def unZZ (u : U64) : U64 := if u.getLsbD 0 then ~~~(u >>> 1) else u >>> 1

/-- The value a signed decode returns: the inverse transform on OK, 0 on an error (42_zig_zag.md R87). -/
def signedValue (d : Decoded) : U64 := if d.status = .ok then unZZ d.value else 0#64

/-- `ENCS` (42_zig_zag.md R86). -/
def execEncs (value : U64) (s : State) : Host.Outcome State Fault Refusal :=
  respond (encodeResp (zz value)) s

/-- `DECS` (42_zig_zag.md R87). -/
def execDecs (inBytes : Lanes) (inAvail : Nat) (s : State) : Host.Outcome State Fault Refusal :=
  respond (decodeResp (decU s.pTenth inBytes inAvail) (signedValue (decU s.pTenth inBytes inAvail))) s

end Sys2Proof.Machine
end

