-- ==== Sys2Proof/Machine/Dispatch.lean ====
section
/-! DEFINITION. One arm per operation: `Execute` with the writes of COMPLETE (30_encoding.md R53). -/

namespace Sys2Proof.Machine

def exec (i : Instr) (s : State) : Host.Outcome State Fault Refusal :=
  match i with
  | .encu value => Sys2Proof.Machine.execEncu value s
  | .encs value => Sys2Proof.Machine.execEncs value s
  | .decu inBytes inAvail => Sys2Proof.Machine.execDecu inBytes inAvail s
  | .decs inBytes inAvail => Sys2Proof.Machine.execDecs inBytes inAvail s

end Sys2Proof.Machine
end

