-- ==== Sys2Proof/Machine/Cycle.lean ====
section
/-! DEFINITION. What one rising edge of `clk` does (10_state.md R23 to R30, 60_exceptions.md R92). -/

namespace Sys2Proof.Machine

/-- An edge in IDLE: ACCEPT when a command is presented (10_state.md R23). A command that is not stable at
the edge is refused (93_implementation_defined.md item 16). -/
def idleEdge (p : PortIn) (s : State) : Host.Outcome State Fault Refusal :=
  if p.cmdValid then
    match p.cmd with
    | some c => .next (accept c s)
    | none => .refused .unstableCommand
  else .next s

/-- An edge in BUSY: COMPLETE at the `P_LAT`-th edge after ACCEPT, nothing before it (10_state.md R25). -/
def busyEdge (s : State) : Host.Outcome State Fault Refusal :=
  if s.wait = 0 then exec (decode s.cmdq) s else .next (countDown s)

/-- An edge in DONE: RELEASE when the host takes the response (10_state.md R26). A host that never does
holds the block there (R24). -/
def doneEdge (p : PortIn) (s : State) : Host.Outcome State Fault Refusal :=
  .next (if p.respReady then release s else s)

/-- An edge without reset, before the first one: a command is refused, otherwise the state stays undefined
(10_state.md R30, log 7). -/
def undefinedEdge (p : PortIn) (s : State) : Host.Outcome State Fault Refusal :=
  if p.cmdValid then .refused .commandBeforeReset else .next (drawUndefined s)

/-- One edge with the input ports `p`: reset takes priority over everything (60_exceptions.md R92), and the
phase decides which of the other transitions can apply. -/
def edgeWith (p : PortIn) (s : State) : Host.Outcome State Fault Refusal :=
  if p.rst then .next (applyReset s)
  else if s.wasReset then
    match s.phase with
    | .idle => idleEdge p s
    | .busy => busyEdge s
    | .done => doneEdge p s
  else undefinedEdge p s

/-- The next edge, with the inputs the schedule gives it. -/
def clockEdge (s : State) : Host.Outcome State Fault Refusal := edgeWith (nextEdge s) (dropEdge s)

/-- The state as it stands right after the ACCEPT of the command word of the number `w` (its low 150 bits),
one edge before its COMPLETE, with a quiet edge next (log 10). -/
def loadCommand (w : Nat) (s : State) : State :=
  { s with phase := .busy, cmdq := Cmd.ofWord (BitVec.ofNat 150 w), wait := 0, wasReset := true,
           edges := PortIn.quiet :: s.edges }

end Sys2Proof.Machine
end

