-- ==== Sys2Proof/Machine/Step.lean ====
section
/-! DEFINITION. One step of the machine is one rising edge of `clk` (10_state.md R18, log 12). -/

namespace Sys2Proof.Machine

/-- One rising edge of `clk`. -/
def step (s : State) : Host.Outcome State Fault Refusal := clockEdge s

/-- `s` with the command of a table word accepted, so that the next step completes exactly it: VLE-CORE
fetches no program, its commands come through the command port (20_memory.md R43, log 10). -/
def State.withFetchWord (s : State) (nbits w : Nat) : State := loadCommand (w % 2 ^ nbits) s

end Sys2Proof.Machine
end

