-- ==== Sys2Proof/Machine/Caller.lean ====
section
/-! DEFINITION. The block as its caller sees it: the function `Execute`, the source's four signatures on the
ports, and a host that parses a stream (30_encoding.md R53; 10_state.md R19; 20_memory.md R44). -/

namespace Sys2Proof.Machine

/-- `Execute` (30_encoding.md R53): the response of a command, from its fields alone, under a setting of
`P_TENTH`. -/
def execute (policy : TenthPolicy) (c : Cmd) : Resp :=
  if c.op = 0b00#2 then encodeResp c.value
  else if c.op = 0b01#2 then encodeResp (zz c.value)
  else if c.op = 0b10#2 then
    decodeResp (decU policy c.inBytes c.inAvail.toNat) (decU policy c.inBytes c.inAvail.toNat).value
  else
    decodeResp (decU policy c.inBytes c.inAvail.toNat) (signedValue (decU policy c.inBytes c.inAvail.toNat))

/-- The byte sequence of a response: `resp_bytes[0 .. resp_len−1]` (10_state.md R19). -/
def respBytes (r : Resp) : List Byte := (List.range r.len.toNat).map (lane r.bytes)

/-- The command a caller presents to decode the start of a buffer: its first bytes in the lanes and
`min(length, 10)` as the count (10_state.md R19). -/
def bufferCommand (op : BitVec 2) (buffer : List Byte) : Cmd :=
  { op := op, inAvail := BitVec.ofNat 4 (min buffer.length 10), value := 0#64, inBytes := packLanes buffer }

/-- `encode_unsigned(value)` (10_state.md R19). -/
def encodeUnsigned (policy : TenthPolicy) (value : U64) : List Byte :=
  respBytes (execute policy { op := 0b00#2, inAvail := 0#4, value := value, inBytes := 0#80 })

/-- `encode_signed(value)` (10_state.md R19): the value is presented as its pattern `u64(value)`. -/
def encodeSigned (policy : TenthPolicy) (value : Int) : List Byte :=
  respBytes (execute policy { op := 0b01#2, inAvail := 0#4, value := BitVec.ofInt 64 value, inBytes := 0#80 })

/-- `decode_unsigned(buffer)` (10_state.md R19): the value and the bytes consumed, or the error status. -/
def decodeUnsigned (policy : TenthPolicy) (buffer : List Byte) : Except (BitVec 2) (U64 × Nat) :=
  let r := execute policy (bufferCommand 0b10#2 buffer)
  if r.status = statusCode .ok then .ok (r.value, r.len.toNat) else .error r.status

/-- `decode_signed(buffer)` (10_state.md R19): the value is read as `i64(resp_value)`. -/
def decodeSigned (policy : TenthPolicy) (buffer : List Byte) : Except (BitVec 2) (Int × Nat) :=
  let r := execute policy (bufferCommand 0b11#2 buffer)
  if r.status = statusCode .ok then .ok (r.value.toInt, r.len.toNat) else .error r.status

/-- A host that parses a stream of concatenated encodings (20_memory.md R44): on OK it advances by
`resp_len`, on an error it aborts (60_exceptions.md R95 leaves the choice to it). The first argument bounds
the number of integers read; the result is the integers and the error status, if one ended the parse. -/
def parseStream {α : Type} (decodeOne : List Byte → Except (BitVec 2) (α × Nat)) :
    Nat → List Byte → List α × Option (BitVec 2)
  | 0, _ => ([], none)
  | _ + 1, [] => ([], none)
  | rounds + 1, b :: bs =>
    match decodeOne (b :: bs) with
    | .ok (v, n) =>
      let rest := parseStream decodeOne rounds ((b :: bs).drop n)
      (v :: rest.1, rest.2)
    | .error e => ([], some e)

end Sys2Proof.Machine
end

