-- ==== Sys2Proof/Machine/System.lean ====
section
/-! DEFINITION. Several instances of the block in one system (60_exceptions.md R101). -/

namespace Sys2Proof.Machine

/-- One edge of the instance at place `k` of a system; the other instances stand still, since nothing is
shared (60_exceptions.md R101). A place with no instance changes nothing (log 13). -/
def stepInstance (k : Nat) (system : List State) : Host.Outcome (List State) Fault Refusal :=
  match system[k]? with
  | none => .next system
  | some s =>
    match step s with
    | .next t => .next (system.set k t)
    | .fault r => .fault r
    | .refused r => .refused r

end Sys2Proof.Machine
end

