-- ==== Sys2Proof/Safety.lean ====
section
/-! DEFINITION. The terms claims use: the arithmetic of the spec's closed forms, the transaction-level model
of 10_state.md R31 with its events, and the invariant of the shown response. -/

namespace Sys2Proof.Machine

/-! ### Closed forms -/

/-- `bitlen(v)`: 0 for 0, else the least `n` with `v < 2^n` (00_scope.md R9). -/
def bitlen (v : U64) : Nat := if v = 0#64 then 0 else v.toNat.log2 + 1

/-- `max(1, ceil(bitlen(u)/7))` (40_varint_encoder.md R61). -/
def minimalLength (u : U64) : Nat := max 1 ((bitlen u + 6) / 7)

/-- Lane `k` of the encoding of `u` in the closed form of 40_varint_encoder.md R62. -/
def closedLane (u : U64) (k : Nat) : Byte :=
  if k + 1 < minimalLength u then 0x80#8 ||| BitVec.ofNat 8 (u.toNat / 2 ^ (7 * k) % 128)
  else if k + 1 = minimalLength u then BitVec.ofNat 8 (u.toNat / 2 ^ (7 * k) % 128)
  else 0x00#8

/-- The sum over `k < n` of `B[k][6:0] · 2^(7k)` (41_varint_decoder.md R70). -/
def chunkSum (b : Lanes) : Nat → Nat
  | 0 => 0
  | n + 1 => chunkSum b n + (payload (lane b n)).toNat * 2 ^ (7 * n)

/-- Lane `t` holds the first terminator byte of the window, among its first `a` bytes
(41_varint_decoder.md R71). -/
abbrev FirstTerminator (b : Lanes) (a t : Nat) : Prop :=
  t < a ∧ isTerminator (lane b t) = true ∧ ∀ j < t, isTerminator (lane b j) = false

/-- None of the first `a` bytes of the window is a terminator byte (41_varint_decoder.md R72, R73). -/
abbrev NoTerminator (b : Lanes) (a : Nat) : Prop := ∀ j < a, isTerminator (lane b j) = false

/-- The tenth byte carries bits above bit 63 and `P_TENTH` rejects it (41_varint_decoder.md R74). -/
abbrev TenthRejected (policy : TenthPolicy) (b : Lanes) (t : Nat) : Prop :=
  t = 9 ∧ hasHighPayload (lane b 9) = true ∧ policy = .malformed

/-- A well-formed encoding (00_scope.md R12): 1 to 10 bytes, the last and only the last a terminator byte,
and, with 10 bytes, a tenth byte whose payload bits 6..1 are zero. -/
abbrev WellFormedEncoding (bs : List Byte) : Prop :=
  1 ≤ bs.length ∧ bs.length ≤ 10 ∧
  (∀ k < bs.length, isTerminator (bs.getD k 0#8) = decide (k + 1 = bs.length)) ∧
  (bs.length = 10 → hasHighPayload (bs.getD 9 0#8) = false)

/-! ### Events and the transaction-level model (10_state.md R31) -/

/-- What one clock edge performs: one of the four transitions of 10_state.md R31, or none of them. -/
inductive Event where
  | accept (c : Cmd)
  | complete (r : Resp)
  | release
  | reset
  | quiet
  deriving DecidableEq, Repr

/-- The two agents that act on a block (10_state.md R15). -/
inductive Agent where
  | block | host
  deriving DecidableEq, Repr

/-- The agent of each transition (10_state.md R31): COMPLETE is the block's, the others are the host's. -/
def Event.agent : Event → Option Agent
  | .accept _ => some .host
  | .complete _ => some .block
  | .release => some .host
  | .reset => some .host
  | .quiet => none

/-- The transition the next edge performs, in a block that has been reset (10_state.md R23, R25, R26, R28;
60_exceptions.md R92). -/
def eventOf (s : State) : Event :=
  if (nextEdge s).rst then .reset
  else match s.phase with
    | .idle =>
      match (nextEdge s).cmdValid, (nextEdge s).cmd with
      | true, some c => .accept c
      | _, _ => .quiet
    | .busy => if s.wait = 0 then .complete (execute s.pTenth s.cmdq) else .quiet
    | .done => if (nextEdge s).respReady then .release else .quiet

/-- The transaction-level state `(phase, CMDQ, RESP)` (10_state.md R31). -/
structure Txn where
  phase : Phase
  cmdq  : Cmd
  resp  : Resp
  deriving DecidableEq, Repr

/-- The transaction-level view of a block. -/
def txnOf (s : State) : Txn := { phase := s.phase, cmdq := s.cmdq, resp := s.resp }

/-- The transitions of 10_state.md R31: what an event does to the transaction-level state, `none` where
that event cannot happen there. RESET writes the phase alone (R28, log 6). -/
def txnStep (policy : TenthPolicy) (t : Txn) : Event → Option Txn
  | .accept c => if t.phase = .idle then some { t with phase := .busy, cmdq := c } else none
  | .complete r =>
    if t.phase = .busy ∧ r = execute policy t.cmdq then some { t with phase := .done, resp := r } else none
  | .release => if t.phase = .done then some { t with phase := .idle } else none
  | .reset => some { t with phase := .idle }
  | .quiet => some t

/-- The next `n` edges, stopping at the first refusal. -/
def runEdges : Nat → State → Host.Outcome State Fault Refusal
  | 0, s => .next s
  | n + 1, s =>
    match step s with
    | .next t => runEdges n t
    | .fault r => .fault r
    | .refused r => .refused r

/-- The events of the next `n` edges, as far as the run goes. -/
def history : Nat → State → List Event
  | 0, _ => []
  | n + 1, s =>
    match step s with
    | .next t => eventOf s :: history n t
    | .fault _ => []
    | .refused _ => []

/-- The commands accepted in a history, in order. -/
def accepted : List Event → List Cmd
  | [] => []
  | .accept c :: es => c :: accepted es
  | .complete _ :: es => accepted es
  | .release :: es => accepted es
  | .reset :: es => accepted es
  | .quiet :: es => accepted es

/-- The responses produced in a history, in order: each the observation of its command, `RESP` at the moment
the phase becomes DONE (10_state.md R31). -/
def produced : List Event → List Resp
  | [] => []
  | .accept _ :: es => produced es
  | .complete r :: es => r :: produced es
  | .release :: es => produced es
  | .reset :: es => produced es
  | .quiet :: es => produced es

/-! ### Invariants -/

/-- In DONE, a block that has been reset shows the response of the command it holds (10_state.md R22, R25). -/
abbrev ShowsItsAnswer (s : State) : Prop :=
  s.wasReset = true → s.phase = .done → s.resp = execute s.pTenth s.cmdq

/-- Two outcomes the host cannot tell apart: both go on and show the same on every output port (10_state.md
R18, R20 to R22), or both are the same refusal. -/
def SameToTheHost : Host.Outcome State Fault Refusal → Host.Outcome State Fault Refusal → Prop
  | .next s, .next t => cmdReady s = cmdReady t ∧ respValid s = respValid t ∧ respPorts s = respPorts t
  | .refused r, .refused q => r = q
  | .fault r, .fault q => r = q
  | _, _ => False

end Sys2Proof.Machine
end

