-- ==== Sys2Proof/Certificates/Slice0/Obligations.lean ====
section
/-! DEFINITION. The statements about VLE-CORE that the provers are asked for. Each says which rule of the spec
it formalises; the model's own choices are named with their log entries. -/

open Sys2Proof Sys2Proof.Machine

/-! ### Words and the operation map -/

/-- 30_encoding.md R48: the fields of the command word stand at their bits, window byte `k` at bits
`[70+8k+7 : 70+8k]`, and no bit of the word is lost. -/
def Obligations.CommandWordFieldsStandAtTheirBits : Prop :=
  (∀ c : Cmd, c.word.extractLsb' 0 2 = c.op ∧ c.word.extractLsb' 2 4 = c.inAvail ∧
    c.word.extractLsb' 6 64 = c.value ∧ c.word.extractLsb' 70 80 = c.inBytes ∧
    (∀ k < 10, c.word.extractLsb' (70 + 8 * k) 8 = lane c.inBytes k) ∧ Cmd.ofWord c.word = c) ∧
  ∀ w : BitVec 150, (Cmd.ofWord w).word = w

/-- 30_encoding.md R50: the fields of the response word stand at their bits and no bit is lost; the status
codes are 0, 1 and 2, and `len` codes 11 to 15 and status 3 are never produced. -/
def Obligations.ResponseWordFieldsStandAtTheirBits : Prop :=
  (∀ r : Resp, r.word.extractLsb' 0 2 = r.status ∧ r.word.extractLsb' 2 4 = r.len ∧
    r.word.extractLsb' 6 64 = r.value ∧ r.word.extractLsb' 70 80 = r.bytes ∧
    (∀ k < 10, r.word.extractLsb' (70 + 8 * k) 8 = lane r.bytes k) ∧ Resp.ofWord r.word = r) ∧
  (∀ w : BitVec 150, (Resp.ofWord w).word = w) ∧
  statusCode .ok = 0#2 ∧ statusCode .incomplete = 1#2 ∧ statusCode .malformed = 2#2 ∧
  ∀ (policy : TenthPolicy) (c : Cmd),
    (execute policy c).status ≠ 3#2 ∧ (execute policy c).len.toNat ≤ 10

/-- 30_encoding.md R48, R52, R57: decoding the word of an instruction gives that instruction back, for every
well-formed instruction and every operand value. -/
def Obligations.DecodeOfEncodeIsTheInstruction : Prop :=
  ∀ i : Instr, i.wellFormed = true →
    decode (encode i) = i ∧ decodeWord (encodeWord i).toNat = .ok i

/-- 30_encoding.md R48, R55: every 150-bit word decodes, to a well-formed instruction with the operation of
its two low bits, and no wider number is read as a command. -/
def Obligations.EveryCommandWordDecodes : Prop :=
  ∀ w : Nat,
    (w < 2 ^ 150 → ∃ i, decodeWord w = .ok i ∧ i.wellFormed = true ∧ i.op.toNat = w % 4) ∧
    (2 ^ 150 ≤ w → decodeWord w = .error .notACommandWord)

/-- 30_encoding.md R52: `cmd.op` selects one of exactly four operations, with `op[1]` selecting a decode and
`op[0]` the signed form. -/
def Obligations.OperationMapSelectsOneOfFour : Prop :=
  ∀ c : Cmd,
    (c.op = 0b00#2 → decode c = .encu c.value) ∧
    (c.op = 0b01#2 → decode c = .encs c.value) ∧
    (c.op = 0b10#2 → decode c = .decu c.inBytes c.inAvail.toNat) ∧
    (c.op = 0b11#2 → decode c = .decs c.inBytes c.inAvail.toNat) ∧
    (c.op.getLsbD 1 = true ↔ ∃ b a, decode c = .decu b a ∨ decode c = .decs b a) ∧
    (c.op.getLsbD 0 = true ↔ (∃ v, decode c = .encs v) ∨ ∃ b a, decode c = .decs b a)

/-- 30_encoding.md R54: any value in a field the operation ignores gives the same response. -/
def Obligations.IgnoredFieldsHaveNoEffect : Prop :=
  ∀ (c d : Cmd) (s : State), c.op = d.op →
    (c.op.getLsbD 1 = false → c.value = d.value → exec (decode c) s = exec (decode d) s) ∧
    (c.op.getLsbD 1 = true → c.inBytes = d.inBytes → c.inAvail = d.inAvail →
      exec (decode c) s = exec (decode d) s)

/-- The command words 95_test_vectors.md section 2.5 writes out decode to the listings beside them. -/
def Obligations.WrittenOutWordsDecode : Prop :=
  decodeWord 0x4B00 = .ok (.encu 300#64) ∧
  decodeWord 0x3FFFFFFFFFFFFFB501 = .ok (.encs (BitVec.ofInt 64 (-300))) ∧
  decodeWord 0xAB00000000000000000A = .ok (.decu 0x02AC#80 2) ∧
  decodeWord 0x135C0000000000000000B = .ok (.decs 0x04D7#80 2)

/-- 20_memory.md R36 and 30_encoding.md R57: lane `k` of a listed byte sequence is its byte `k`, and a lane
past its end is 0. -/
def Obligations.ListedBytesFillTheLanes : Prop :=
  ∀ (bs : List Byte) (k : Nat), k < 10 → lane (packLanes bs) k = bs.getD k 0x00#8

/-- 30_encoding.md R57, R58: a listing assembles to a command that decodes to its operation, with every field
the syntax does not give at 0; the aliases and the omitted `avail` mean what R58 says. -/
def Obligations.ListingsAssembleToTheirCommands : Prop :=
  (∀ l : Listing, l.instr.wellFormed = true →
    decode l.assemble = l.instr ∧
    (l.assemble.op.getLsbD 1 = false → l.assemble.inAvail = 0#4 ∧ l.assemble.inBytes = 0#80) ∧
    (l.assemble.op.getLsbD 1 = true → l.assemble.value = 0#64)) ∧
  (∀ v s bs a, (Listing.encodeUnsigned v).instr = .encu v ∧
    (Listing.encodeSigned s).instr = .encs (BitVec.ofInt 64 s) ∧
    (Listing.decodeUnsigned bs a).instr = .decu (packLanes bs) a ∧
    (Listing.decodeSigned bs a).instr = .decs (packLanes bs) a) ∧
  ∀ bs, (Listing.decu bs none).instr = .decu (packLanes bs) (min bs.length 10) ∧
    (Listing.decs bs none).instr = .decs (packLanes bs) (min bs.length 10)

/-! ### The operations -/

/-- 30_encoding.md R53, 10_state.md R25: on every command word, and in every state, the decoded operation
answers a next state with `RESP` as `Execute` gives it, the phase DONE, and nothing else changed. -/
def Obligations.EveryCommandExecutesTotally : Prop :=
  ∀ (c : Cmd) (s : State),
    exec (decode c) s = .next { s with resp := execute s.pTenth c, phase := .done }

/-- 10_state.md R17, 20_memory.md R40: an operation completes in every state, writes only `RESP` and
`phase`, and its response is a function of the command and `P_TENTH` alone. -/
def Obligations.OperationsWriteOnlyRespAndPhase : Prop :=
  ∃ answer : TenthPolicy → Instr → Resp, ∀ (i : Instr) (s : State),
    exec i s = .next { s with resp := answer s.pTenth i, phase := .done }

/-- 40_varint_encoder.md R61, R62, R65: `ENCU` ends with OK, the length `max(1, ceil(bitlen(u)/7))`, the value,
and the closed form in every lane; nothing else changes. -/
def Obligations.EncuAnswersTheMinimalEncoding : Prop :=
  ∀ (v : U64) (s : State), ∃ r : Resp,
    exec (.encu v) s = .next { s with resp := r, phase := .done } ∧
    r.status = 0#2 ∧ r.len.toNat = minimalLength v ∧ r.value = v ∧
    ∀ k < 10, lane r.bytes k = closedLane v k

/-- 42_zig_zag.md R81, R86: `ENCS` ends with OK, `resp.value` the zig-zag image of the signed value as an
integer, and the encoding of that image; nothing else changes. -/
def Obligations.EncsAnswersTheEncodingOfTheZigZagImage : Prop :=
  ∀ (x : U64) (s : State), ∃ r : Resp,
    exec (.encs x) s = .next { s with resp := r, phase := .done } ∧
    r.status = 0#2 ∧
    (r.value.toNat : Int) = (if 0 ≤ x.toInt then 2 * x.toInt else -2 * x.toInt - 1) ∧
    r.len.toNat = minimalLength r.value ∧
    ∀ k < 10, lane r.bytes k = closedLane r.value k

/-- 41_varint_decoder.md R70 to R75, R78: the result of `DECU` on every window and count, under each setting
of `P_TENTH`; nothing but `RESP` and `phase` changes. -/
def Obligations.DecuAnswersByItsFirstTerminator : Prop :=
  ∀ (b : Lanes) (a : Nat) (s : State), ∃ r : Resp,
    exec (.decu b a) s = .next { s with resp := r, phase := .done } ∧ r.bytes = 0#80 ∧
    (∀ t, FirstTerminator b (min a 10) t → ¬ TenthRejected s.pTenth b t →
      r.status = 0#2 ∧ r.len.toNat = t + 1 ∧ r.value = BitVec.ofNat 64 (chunkSum b (t + 1))) ∧
    (∀ t, FirstTerminator b (min a 10) t → TenthRejected s.pTenth b t →
      r.status = 2#2 ∧ r.len.toNat = 10 ∧ r.value = 0#64) ∧
    (a < 10 → NoTerminator b a → r.status = 1#2 ∧ r.len.toNat = a ∧ r.value = 0#64) ∧
    (10 ≤ a → NoTerminator b 10 → r.status = 2#2 ∧ r.len.toNat = 10 ∧ r.value = 0#64)

/-- 60_exceptions.md R91: a decode reports exactly one status, decided in lane order: a terminator byte among
the bytes it may read, else the end of a buffer shorter than ten bytes, else ten bytes without one. -/
def Obligations.DecodeStatusByPriority : Prop :=
  ∀ (policy : TenthPolicy) (b : Lanes) (a : Nat),
    ((decU policy b a).status = .ok ↔
      ∃ t, FirstTerminator b (min a 10) t ∧ ¬ TenthRejected policy b t) ∧
    ((decU policy b a).status = .incomplete ↔ min a 10 < 10 ∧ NoTerminator b (min a 10)) ∧
    ((decU policy b a).status = .malformed ↔
      (∃ t, FirstTerminator b (min a 10) t ∧ TenthRejected policy b t) ∨
      (min a 10 = 10 ∧ NoTerminator b (min a 10)))

/-- 42_zig_zag.md R83, R87: `DECS` ends with the status and `len` of `DECU` on the same operands; its value
is the inverse zig-zag of `DECU`'s as an integer on OK, and 0 on an error. -/
def Obligations.DecsAnswersTheInverseZigZagOfDecu : Prop :=
  ∀ (b : Lanes) (a : Nat) (s : State), ∃ r q : Resp,
    exec (.decu b a) s = .next { s with resp := r, phase := .done } ∧
    exec (.decs b a) s = .next { s with resp := q, phase := .done } ∧
    q.status = r.status ∧ q.len = r.len ∧ q.bytes = 0#80 ∧
    (r.status = 0#2 → q.value.toInt =
      if r.value.toNat % 2 = 0 then ((r.value.toNat / 2 : Nat) : Int)
      else -(((r.value.toNat + 1) / 2 : Nat) : Int)) ∧
    (r.status ≠ 0#2 → q.value = 0#64)

/-- 30_encoding.md R51, R55; 41_varint_decoder.md R75; 60_exceptions.md R89, R90; 70_reset_and_hazards.md R112:
what every response looks like. No other status and no longer length is ever produced. -/
def Obligations.EveryResponseIsOneTheSpecAllows : Prop :=
  ∀ (policy : TenthPolicy) (c : Cmd),
    (execute policy c).status ≠ 3#2 ∧ (execute policy c).len.toNat ≤ 10 ∧
    (c.op.getLsbD 1 = false → (execute policy c).status = 0#2 ∧ 1 ≤ (execute policy c).len.toNat ∧
      ∀ k < 10, (execute policy c).len.toNat ≤ k → lane (execute policy c).bytes k = 0x00#8) ∧
    (c.op.getLsbD 1 = true → (execute policy c).bytes = 0#80 ∧
      ((execute policy c).status = 0#2 → 1 ≤ (execute policy c).len.toNat) ∧
      ((execute policy c).status = 1#2 → (execute policy c).value = 0#64 ∧
        (execute policy c).len = c.inAvail ∧ c.inAvail.toNat < 10) ∧
      ((execute policy c).status = 2#2 → (execute policy c).value = 0#64 ∧ 10 ≤ c.inAvail.toNat ∧
        (execute policy c).len.toNat = 10))

/-! ### The varint_encoder -/

/-- 40_varint_encoder.md R63: the ranges of `u` with each encoding length. -/
def Obligations.EncodingLengthByRange : Prop :=
  ∀ u : U64,
    (∀ n, 1 ≤ n → n ≤ 9 → ((encU u).length ≤ n ↔ u.toNat < 2 ^ (7 * n))) ∧
    ((encU u).length = 10 ↔ 2 ^ 63 ≤ u.toNat)

/-- 40_varint_encoder.md R64: length bounds, minimality, framing and injectivity of `EncU`. -/
def Obligations.EncodingGuarantees : Prop :=
  (∀ u : U64, 1 ≤ (encU u).length ∧ (encU u).length ≤ 10 ∧
    (2 ≤ (encU u).length → payload ((encU u).getD ((encU u).length - 1) 0x00#8) ≠ 0#7) ∧
    ∀ k < (encU u).length, ((encU u).getD k 0x00#8).getLsbD 7 = decide (k + 1 < (encU u).length)) ∧
  ∀ u v : U64, encU u = encU v → u = v

/-- 20_memory.md R33, R34: payload bit `j` of byte `k` is value bit `7k+j`; in the tenth byte the payload bits
of value bits 64 to 69 are 0. -/
def Obligations.EncodingBitMapping : Prop :=
  ∀ (u : U64) (k j : Nat), k < (encU u).length → j < 7 →
    ((encU u).getD k 0x00#8).getLsbD j = (if 7 * k + j ≤ 63 then u.getLsbD (7 * k + j) else false)

/-- 40_varint_encoder.md R66: when the encoding has ten bytes, byte 9 is exactly `0x01`. -/
def Obligations.TenthByteOfAnEncodingIsOne : Prop :=
  ∀ u : U64, (encU u).length = 10 → (encU u).getD 9 0x00#8 = 0x01#8

/-! ### The varint_decoder -/

/-- 20_memory.md R39, 41_varint_decoder.md R71: a lane that is at or past `min(in_avail, 10)`, or after the
first terminator byte, has no effect on any response field, of `DECU` and of `DECS`. -/
def Obligations.UnreadLanesHaveNoEffect : Prop :=
  ∀ (b c : Lanes) (a : Nat) (s : State),
    (∀ k < min a 10, NoTerminator b k → lane b k = lane c k) →
      exec (.decu b a) s = exec (.decu c a) s ∧ exec (.decs b a) s = exec (.decs c a) s

/-- 30_encoding.md R49: `in_avail` values 11 to 15 mean the same as 10. -/
def Obligations.CountsPastTenMeanTen : Prop :=
  ∀ (b : Lanes) (a : Nat) (s : State), 10 ≤ a →
    exec (.decu b a) s = exec (.decu b 10) s ∧ exec (.decs b a) s = exec (.decs b 10) s

/-- 41_varint_decoder.md R74: the two settings of `P_TENTH` differ exactly on the windows whose first
terminator is byte 9 with payload bits 6..1 not all zero. -/
def Obligations.TenthPolicyMattersOnlyOnTenthByteOverflow : Prop :=
  ∀ (b : Lanes) (a : Nat),
    decU .malformed b a ≠ decU .truncate b a ↔
      FirstTerminator b (min a 10) 9 ∧ hasHighPayload (lane b 9) = true

/-- 41_varint_decoder.md R77: decoding a window that starts with the encoding of `u` gives `u` and its length,
whatever the other lanes hold, under both settings of `P_TENTH`. -/
def Obligations.UnsignedRoundTrip : Prop :=
  ∀ (policy : TenthPolicy) (u : U64) (w : Lanes) (avail : Nat),
    (∀ k < (encU u).length, lane w k = (encU u).getD k 0x00#8) → (encU u).length ≤ avail →
      decU policy w avail = { status := .ok, value := u, len := (encU u).length }

/-- 00_scope.md R12, 41_varint_decoder.md R76: every encoding is well-formed, and every well-formed sequence,
minimal or not, decodes with OK to its accumulated value and its own length. -/
def Obligations.WellFormedSequencesAreAccepted : Prop :=
  (∀ u : U64, WellFormedEncoding (encU u)) ∧
  ∀ (policy : TenthPolicy) (bs : List Byte) (w : Lanes) (avail : Nat), WellFormedEncoding bs →
    (∀ k < bs.length, lane w k = bs.getD k 0x00#8) → bs.length ≤ avail →
      decU policy w avail =
        { status := .ok, value := BitVec.ofNat 64 (chunkSum w bs.length), len := bs.length }

/-! ### The zig_zag_transform -/

/-- 42_zig_zag.md R81: the forward transform as integers and as bits. -/
def Obligations.ZigZagAsIntegersAndAsBits : Prop :=
  ∀ x : U64,
    ((zz x).toNat : Int) = (if 0 ≤ x.toInt then 2 * x.toInt else -2 * x.toInt - 1) ∧
    zz x = (x <<< 1) ^^^ (if x.getLsbD 63 then BitVec.allOnes 64 else 0#64) ∧
    (zz x).getLsbD 0 = x.getLsbD 63 ∧
    ∀ k < 63, (zz x).getLsbD (k + 1) = (x.getLsbD k ^^ x.getLsbD 63)

/-- 42_zig_zag.md R83: the inverse transform as integers and as bits. -/
def Obligations.UnZigZagAsIntegersAndAsBits : Prop :=
  ∀ u : U64,
    (unZZ u).toInt = (if u.toNat % 2 = 0 then ((u.toNat / 2 : Nat) : Int)
      else -(((u.toNat + 1) / 2 : Nat) : Int)) ∧
    unZZ u = (u >>> 1) ^^^ (if u.getLsbD 0 then BitVec.allOnes 64 else 0#64) ∧
    (unZZ u).getLsbD 63 = u.getLsbD 0

/-- 42_zig_zag.md R84: the two transforms are inverse to each other, the extremes included. -/
def Obligations.ZigZagIsABijection : Prop :=
  (∀ x : U64, unZZ (zz x) = x) ∧ (∀ u : U64, zz (unZZ u) = u) ∧
  zz 0x8000000000000000#64 = 0xFFFFFFFFFFFFFFFF#64 ∧ zz 0x7FFFFFFFFFFFFFFF#64 = 0xFFFFFFFFFFFFFFFE#64

/-- 42_zig_zag.md R85: the signed values with each encoding length. -/
def Obligations.SignedEncodingLengthByRange : Prop :=
  ∀ x : U64,
    (encU (zz x)).length = minimalLength (zz x) ∧
    (∀ n, 1 ≤ n → n ≤ 9 →
      ((encU (zz x)).length ≤ n ↔ -(2 ^ (7 * n - 1)) ≤ x.toInt ∧ x.toInt ≤ 2 ^ (7 * n - 1) - 1)) ∧
    ((encU (zz x)).length = 10 ↔ 2 ^ 62 ≤ x.toInt ∨ x.toInt ≤ -(2 ^ 62) - 1)

/-- 42_zig_zag.md R84, R87, at the operations: `DECS` of a window that starts with the bytes `ENCS` answered
gives OK, the same length and the value `ENCS` was given, whatever happened in between. -/
def Obligations.SignedRoundTripThroughTheOperations : Prop :=
  ∀ (x : U64) (w : Lanes) (avail : Nat) (s s' : State), ∃ r : Resp,
    exec (.encs x) s = .next { s with resp := r, phase := .done } ∧
    ((∀ k < r.len.toNat, lane w k = lane r.bytes k) → r.len.toNat ≤ avail →
      exec (.decs w avail) s' =
        .next { s' with resp := { status := 0#2, len := r.len, value := x, bytes := 0#80 }, phase := .done })

/-- 20_memory.md R44, 10_state.md R19: a host parsing a stream of concatenated encodings, with no length of
any of them, reads back exactly the values encoded, unsigned and signed. -/
def Obligations.StreamsOfEncodingsParseBack : Prop :=
  (∀ (policy : TenthPolicy) (vs : List U64) (rounds : Nat), vs.length ≤ rounds →
    parseStream (decodeUnsigned policy) rounds (vs.map (encodeUnsigned policy)).flatten = (vs, none)) ∧
  ∀ (policy : TenthPolicy) (vs : List Int) (rounds : Nat), vs.length ≤ rounds →
    (∀ v ∈ vs, -(2 ^ 63) ≤ v ∧ v ≤ 2 ^ 63 - 1) →
      parseStream (decodeSigned policy) rounds (vs.map (encodeSigned policy)).flatten = (vs, none)

/-! ### The operation cycle -/

/-- 10_state.md R20, R21, R22: the outputs by the phase; the response ports show `RESP` in DONE and have no
value otherwise (log 9). -/
def Obligations.OutputPortsFollowThePhase : Prop :=
  ∀ s : State,
    (cmdReady s = true ↔ s.phase = .idle) ∧ (respValid s = true ↔ s.phase = .done) ∧
    (respValid s = true → respPorts s = some s.resp) ∧ (respValid s = false → respPorts s = none)

/-- 10_state.md R23: ACCEPT captures the whole command and makes the block BUSY. With `cmd_valid` = 0 in IDLE
nothing changes, and in another phase neither `cmd_valid` nor any command port is sampled. -/
def Obligations.CommandsAreSampledOnlyAtAccept : Prop :=
  ∀ (s : State) (p : PortIn) (rest : List PortIn), s.wasReset = true → s.edges = p :: rest → p.rst = false →
    (∀ c, s.phase = .idle → p.cmdValid = true → p.cmd = some c →
      ∃ t, step s = .next t ∧ t.cmdq = c ∧ t.phase = .busy ∧ t.resp = s.resp ∧ t.pTenth = s.pTenth ∧
        t.wasReset = true ∧ t.edges = rest) ∧
    (s.phase = .idle → p.cmdValid = false → step s = .next { s with edges := rest }) ∧
    (s.phase ≠ .idle → ∀ v c,
      step s = step { s with edges := { p with cmdValid := v, cmd := c } :: rest })

/-- 70_reset_and_hazards.md R108 and 93_implementation_defined.md item 16 (log 8): a command that is not stable
at the ACCEPT edge is refused by the model. -/
def Obligations.UnstableCommandIsRefused : Prop :=
  ∀ (s : State) (p : PortIn) (rest : List PortIn), s.wasReset = true → s.edges = p :: rest → p.rst = false →
    s.phase = .idle → p.cmdValid = true → p.cmd = none → step s = .refused .unstableCommand

/-- A step runs the decoded instruction: in BUSY, at the edge that COMPLETE falls on, the step is `exec` of the
decoded `CMDQ`, on the state with that edge's inputs used up; at an earlier edge it only counts down (log 2). -/
def Obligations.StepRunsTheDecodedCommand : Prop :=
  ∀ s : State, s.wasReset = true → s.phase = .busy → (nextEdge s).rst = false →
    (s.wait = 0 → step s = exec (decode s.cmdq) { s with edges := s.edges.tail }) ∧
    (s.wait ≠ 0 → step s = .next { s with edges := s.edges.tail, wait := s.wait - 1 })

/-- The command a table word stands for is the one the next step runs after `withFetchWord` (log 10, log 11). -/
def Obligations.LoadedTableWordRunsNext : Prop :=
  ∀ (s : State) (nbits w : Nat) (i : Instr), decodeTableWord nbits w = some i →
    step (s.withFetchWord nbits w) =
      exec i { s with phase := .busy, cmdq := Cmd.ofWord (BitVec.ofNat 150 (w % 2 ^ nbits)), wait := 0,
                      wasReset := true }

/-- 10_state.md R25: with ACCEPT at edge 0 and no reset, COMPLETE is at the `P_LAT`-th edge after it, not
before, and writes `Execute(CMDQ)` whatever the host does meanwhile. `P_LAT` of the next command is the head
of the list `pLat` plus 1 (log 2). -/
def Obligations.CompleteFallsOnThePLatEdge : Prop :=
  ∀ (s : State) (c : Cmd), s.wasReset = true → s.phase = .idle →
    (nextEdge s).cmdValid = true → (nextEdge s).cmd = some c →
    (∀ k ≤ s.pLat.headD 0 + 1, (s.edges.getD k PortIn.quiet).rst = false) →
      (∀ k ≤ s.pLat.headD 0, ∃ t, runEdges (k + 1) s = .next t ∧ t.phase = .busy ∧ t.cmdq = c ∧
        t.resp = s.resp) ∧
      ∃ t, runEdges (s.pLat.headD 0 + 2) s = .next t ∧ t.phase = .done ∧ t.cmdq = c ∧
        t.resp = execute s.pTenth c

/-- 10_state.md R24, R26: in DONE, RELEASE happens exactly when `resp_ready` = 1 and keeps `RESP`; a command
presented at that edge is not accepted; without `resp_ready` the block stays as it is. -/
def Obligations.ReleaseWaitsForTheHost : Prop :=
  ∀ s : State, s.wasReset = true → s.phase = .done → (nextEdge s).rst = false →
    ((nextEdge s).respReady = true → step s = .next { s with edges := s.edges.tail, phase := .idle }) ∧
    ((nextEdge s).respReady = false → step s = .next { s with edges := s.edges.tail })

/-- 10_state.md R28, 60_exceptions.md R92: an edge with `rst` = 1 performs RESET and nothing else, in every
phase, from every state, and writes no other element of the spec's state. Two clauses are the model's: that
`CMDQ` and `RESP` survive the edge follows R28, where R29 calls them unspecified after reset (log 6, DEDUCED),
and `wasReset` is its record that the host has applied reset (log 7, DESIGN CHOICE). -/
def Obligations.ResetTakesPriorityOverEverything : Prop :=
  ∀ s : State, (nextEdge s).rst = true →
    step s = .next { s with edges := s.edges.tail, phase := .idle, wasReset := true }

/-- 70_reset_and_hazards.md R104: after any number of reset edges, at least one, from any state (one never
reset before included), the block is in IDLE, ready and showing no response, and accepts a command at the
first edge with `rst` = 0. -/
def Obligations.ResetSequenceReadiesTheBlock : Prop :=
  ∀ (s : State) (resets : List PortIn) (p : PortIn) (rest : List PortIn) (c : Cmd),
    s.edges = resets ++ p :: rest → resets ≠ [] → (∀ q ∈ resets, q.rst = true) →
    p.rst = false → p.cmdValid = true → p.cmd = some c →
      ∃ t u, runEdges resets.length s = .next t ∧ t.phase = .idle ∧ cmdReady t = true ∧
        respValid t = false ∧ step t = .next u ∧ u.phase = .busy ∧ u.cmdq = c

/-- 10_state.md R29: the state right after reset is in IDLE, ready, with no response and no defined response
ports. (What `CMDQ` and `RESP` hold there is the model's choice and no part of this statement.) -/
def Obligations.StateAfterReset : Prop :=
  State.reset.phase = .idle ∧ cmdReady State.reset = true ∧ respValid State.reset = false ∧
  respPorts State.reset = none ∧ State.reset.wasReset = true

/-- 10_state.md R30 and 93_implementation_defined.md item 11 (log 7): before the first reset the model refuses a
command, and an edge without one leaves the block not reset. -/
def Obligations.NoCommandBeforeTheFirstReset : Prop :=
  ∀ s : State, s.wasReset = false → (nextEdge s).rst = false →
    ((nextEdge s).cmdValid = true → step s = .refused .commandBeforeReset) ∧
    ((nextEdge s).cmdValid = false →
      ∃ t, step s = .next t ∧ t.wasReset = false ∧ t.pTenth = s.pTenth ∧ t.edges = s.edges.tail)

/-- 10_state.md R16: which transition writes which element of the state; `P_TENTH` is never written
(70_reset_and_hazards.md R106). That `CMDQ` and `RESP` survive a reset edge is log 6, the record `wasReset` log
7, the schedule `edges` log 3. -/
def Obligations.OnlyTheNamedTransitionsWriteEachElement : Prop :=
  ∀ s t : State, s.wasReset = true → step s = .next t →
    (t.cmdq = s.cmdq ∨ eventOf s = .accept t.cmdq) ∧
    (t.resp = s.resp ∨ eventOf s = .complete t.resp) ∧
    (t.phase = s.phase ∨ eventOf s ≠ .quiet) ∧
    t.pTenth = s.pTenth ∧ t.wasReset = true ∧ t.edges = s.edges.tail

/-- 10_state.md R31: every run of the edge-level block, from every state that has been reset, is a run of the
transaction-level model with its state `(phase, CMDQ, RESP)` and its four transitions. That its RESET keeps
`CMDQ` and `RESP` is log 6. -/
def Obligations.RunsRefineTheTransactionModel : Prop :=
  ∀ (n : Nat) (s t : State), s.wasReset = true → runEdges n s = .next t →
    (history n s).foldlM (txnStep s.pTenth) (txnOf s) = some (txnOf t)

/-- 10_state.md R31: a run that has reached a final state is over: no later edge, however many and whatever else
the host does, accepts a command or produces a response, none is refused, and the state stays final. -/
def Obligations.FinalStatesEndTheRun : Prop :=
  ∀ (n : Nat) (s : State), s.wasReset = true → isFinal s = true →
    ∃ t, runEdges n s = .next t ∧ isFinal t = true ∧ t.cmdq = s.cmdq ∧ t.resp = s.resp ∧
      accepted (history n s) = [] ∧ produced (history n s) = []

/-- 10_state.md R31: a run is not over in BUSY. With no more commands and no reset to come, it is over once the
block has completed the command and the host has taken the response, and not before. `wait` is the model's
countdown to COMPLETE (log 2). -/
def Obligations.BusyRunsEndOnceTheResponseIsTaken : Prop :=
  ∀ s : State, s.wasReset = true → s.phase = .busy → hostHasCommands s = false →
    (∀ k ≤ s.wait + 1, (s.edges.getD k PortIn.quiet).rst = false) →
    (s.edges.getD (s.wait + 1) PortIn.quiet).respReady = true →
      (∀ k ≤ s.wait + 1, ∃ t, runEdges k s = .next t ∧ isFinal t = false) ∧
      ∃ t, runEdges (s.wait + 2) s = .next t ∧ isFinal t = true ∧ t.resp = execute s.pTenth s.cmdq

/-- 10_state.md R27, R28: without reset, the responses produced are those of the commands accepted, one each
and in order, but for the one command still in the block; with resets, they are those of some of the
commands accepted, in order. -/
def Obligations.OneResponsePerCommandInOrder : Prop :=
  ∀ (n : Nat) (s t : State), s.wasReset = true → s.phase = .idle → runEdges n s = .next t →
    ((∀ e ∈ history n s, e ≠ .reset) →
      produced (history n s) ++ (if t.phase = .busy then [execute s.pTenth t.cmdq] else []) =
        (accepted (history n s)).map (execute s.pTenth)) ∧
    (produced (history n s)).Sublist ((accepted (history n s)).map (execute s.pTenth))

/-- 10_state.md R22, R25: a block that has been reset and is in DONE shows the response of the command it
holds; every step keeps this, from every state. -/
def Obligations.StepKeepsShowingItsAnswer : Prop :=
  ∀ s t : State, ShowsItsAnswer s → step s = .next t → ShowsItsAnswer t

/-- The invariant of `StepKeepsShowingItsAnswer` holds right after reset. -/
def Obligations.ResetShowsItsAnswer : Prop := ShowsItsAnswer State.reset

/-- 10_state.md R17, R29, 60_exceptions.md R94: from IDLE, what `CMDQ` and `RESP` held before is never
observable, at any later edge: no earlier command, error or response has an effect. -/
def Obligations.OldRegistersAreUnobservable : Prop :=
  ∀ (n : Nat) (s : State) (c : Cmd) (r : Resp), s.wasReset = true → s.phase = .idle →
    SameToTheHost (runEdges n s) (runEdges n { s with cmdq := c, resp := r })

/-- 70_reset_and_hazards.md R110: with a host that always presents a command and always takes the response,
ACCEPT is at edge 0, COMPLETE at edge `P_LAT`, RELEASE at the next and the next ACCEPT at the one after. -/
def Obligations.IssueSpacing : Prop :=
  ∀ s : State, s.wasReset = true → s.phase = .idle →
    (∀ k ≤ s.pLat.headD 0 + 3, (s.edges.getD k PortIn.quiet).rst = false ∧
      (s.edges.getD k PortIn.quiet).cmdValid = true ∧ (s.edges.getD k PortIn.quiet).cmd ≠ none ∧
      (s.edges.getD k PortIn.quiet).respReady = true) →
    (∀ k ≤ s.pLat.headD 0, ∃ t, runEdges (k + 1) s = .next t ∧ t.phase = .busy) ∧
    (∃ t, runEdges (s.pLat.headD 0 + 1 + 1) s = .next t ∧ t.phase = .done) ∧
    (∃ t, runEdges (s.pLat.headD 0 + 1 + 2) s = .next t ∧ t.phase = .idle) ∧
    ∃ t, runEdges (s.pLat.headD 0 + 1 + 3) s = .next t ∧ t.phase = .busy

/-- 60_exceptions.md R101: instances share no state: an edge of one leaves every other as it was, and edges of
two instances may happen in either order. -/
def Obligations.InstancesAreIndependent : Prop :=
  ∀ (system a : List State) (j k : Nat), j ≠ k → stepInstance j system = .next a →
    a[k]? = system[k]? ∧ a.length = system.length ∧
    ∀ b, stepInstance k a = .next b →
      ∃ c, stepInstance k system = .next c ∧ stepInstance j c = .next b
end

