-- ==== Sys2Proof/Laws/Decoder.lean ====
section
/-! SUPPORT. What the decoder's loop does at one lane, the window's cases, and the fields of a response. -/

namespace Sys2Proof.Machine

section
variable {policy : TenthPolicy} {b : Lanes} {a left k : Nat} {acc : U64}

/-- The buffer ends at lane `k` (41_varint_decoder.md R72). -/
theorem decLoop_at_end (h : k = a) :
    decLoop policy b a (left + 1) k acc = { status := .incomplete, value := 0#64, len := a } := by
  rw [decLoop, if_pos h]

/-- Lane `k` is a continuation byte (41_varint_decoder.md R69). -/
theorem decLoop_continue (h : k ≠ a) (ht : isTerminator (lane b k) = false) :
    decLoop policy b a (left + 1) k acc =
      decLoop policy b a left (k + 1) (acc ||| ((payload (lane b k)).setWidth 64 <<< (7 * k))) := by
  rw [decLoop, if_neg h, if_neg (by simp [ht])]

/-- Lane `k` is a terminator byte that is accepted (41_varint_decoder.md R71). -/
theorem decLoop_terminator (h : k ≠ a) (ht : isTerminator (lane b k) = true) (hr : ¬ TenthRejected policy b k) :
    decLoop policy b a (left + 1) k acc =
      { status := .ok, value := acc ||| ((payload (lane b k)).setWidth 64 <<< (7 * k)), len := k + 1 } := by
  rw [decLoop, if_neg h, if_pos ht, if_neg]
  rintro ⟨rfl, hh, hp⟩
  exact hr ⟨rfl, hh, hp⟩

/-- Lane `k` is a tenth byte that is rejected (41_varint_decoder.md R74). -/
theorem decLoop_tenth_rejected (h : k ≠ a) (ht : isTerminator (lane b k) = true) (hr : TenthRejected policy b k) :
    decLoop policy b a (left + 1) k acc = { status := .malformed, value := 0#64, len := maxLen } := by
  obtain ⟨rfl, hh, hp⟩ := hr
  rw [decLoop, if_neg h, if_pos ht, if_pos ⟨rfl, hh, hp⟩]

/-- Ten lanes without a terminator byte (41_varint_decoder.md R73). -/
theorem decLoop_no_lane_left :
    decLoop policy b a 0 k acc = { status := .malformed, value := 0#64, len := maxLen } := rfl

end

/-- Among the first `a` lanes there is a first terminator byte or there is none (60_exceptions.md R91). -/
theorem firstTerminator_or_none (b : Lanes) (a : Nat) : (∃ t, FirstTerminator b a t) ∨ NoTerminator b a := by
  induction a with
  | zero => exact .inr fun j hj => absurd hj (Nat.not_lt_zero j)
  | succ a ih =>
    rcases ih with ⟨t, ht, h⟩ | hn
    · exact .inl ⟨t, by omega, h⟩
    · cases h : isTerminator (lane b a) with
      | true => exact .inl ⟨a, by omega, h, hn⟩
      | false =>
        refine .inr fun j hj => ?_
        rcases Nat.lt_succ_iff_lt_or_eq.1 hj with hj | rfl
        · exact hn j hj
        · exact h

/-- A code is 0 for OK alone. -/
theorem statusCode_eq_zero (s : Status) : statusCode s = 0#2 ↔ s = .ok := by
  cases s <;> simp [statusCode]

@[simp] theorem encodeResp_status (u : U64) : (encodeResp u).status = 0#2 := rfl
@[simp] theorem encodeResp_value (u : U64) : (encodeResp u).value = u := rfl
@[simp] theorem encodeResp_len (u : U64) : (encodeResp u).len = BitVec.ofNat 4 (encU u).length := rfl
@[simp] theorem encodeResp_bytes (u : U64) : (encodeResp u).bytes = packLanes (encU u) := rfl
@[simp] theorem decodeResp_status (d : Decoded) (v : U64) : (decodeResp d v).status = statusCode d.status := rfl
@[simp] theorem decodeResp_value (d : Decoded) (v : U64) : (decodeResp d v).value = v := rfl
@[simp] theorem decodeResp_len (d : Decoded) (v : U64) : (decodeResp d v).len = BitVec.ofNat 4 d.len := rfl
@[simp] theorem decodeResp_bytes (d : Decoded) (v : U64) : (decodeResp d v).bytes = 0#80 := rfl

end Sys2Proof.Machine
end

