-- ==== Sys2Proof/Laws/Encoder.lean ====
section
/-! SUPPORT. What the encoder's loop does in one round, and the length formula by ranges. -/

namespace Sys2Proof.Machine

/-- `bitlen(v)` is the least `n` with `v < 2^n` (00_scope.md R9). -/
theorem bitlen_le_iff (v : U64) (m : Nat) : bitlen v ≤ m ↔ v.toNat < 2 ^ m := by
  unfold bitlen
  split_ifs with h
  · subst h; simp
  · have hv : v.toNat ≠ 0 := fun h' => h (BitVec.eq_of_toNat_eq (by simpa using h'))
    rw [Nat.succ_le_iff, Nat.log2_lt hv]

theorem minimalLength_le_iff (u : U64) {n : Nat} (hn : 1 ≤ n) : minimalLength u ≤ n ↔ u.toNat < 2 ^ (7 * n) := by
  rw [← bitlen_le_iff]
  unfold minimalLength
  omega

theorem one_le_minimalLength (u : U64) : 1 ≤ minimalLength u := by
  unfold minimalLength
  omega

theorem minimalLength_le_ten (u : U64) : minimalLength u ≤ 10 :=
  (minimalLength_le_iff u (by omega)).2 (lt_of_lt_of_le u.isLt (by norm_num))

theorem minimalLength_of_lt_128 {u : U64} (h : u.toNat < 128) : minimalLength u = 1 := by
  have h1 := (minimalLength_le_iff u (n := 1) le_rfl).2 (by simpa using h)
  have h2 := one_le_minimalLength u
  omega

/-- Seven more significant bits are one more byte. -/
theorem minimalLength_of_ge_128 {u : U64} (h : 128 ≤ u.toNat) : minimalLength u = minimalLength (u >>> 7) + 1 := by
  have h1 := one_le_minimalLength (u >>> 7)
  have step : ∀ n, 1 ≤ n → (minimalLength u ≤ n + 1 ↔ minimalLength (u >>> 7) ≤ n) := by
    intro n hn
    rw [minimalLength_le_iff _ (by omega), minimalLength_le_iff _ hn, BitVec.toNat_ushiftRight,
      Nat.shiftRight_eq_div_pow, Nat.div_lt_iff_lt_mul (by norm_num), ← pow_add]
    ring_nf
  have h2 : ¬ minimalLength u ≤ 1 := by
    rw [minimalLength_le_iff _ le_rfl]
    simpa using h
  have h3 := (step _ h1).2 le_rfl
  have h4 := (step (minimalLength u - 1) (by omega)).1 (by omega)
  omega

/-- A shift by 7 leaves nothing exactly of the values below 128. -/
theorem ushiftRight_seven_eq_zero (r : U64) : r >>> 7 = 0#64 ↔ r.toNat < 128 := by
  rw [← BitVec.toNat_inj]
  simp [Nat.shiftRight_eq_div_pow]

/-- The byte a round emits, from the remaining value as a number. -/
theorem emitted_byte (r : U64) :
    0x80#8 ||| (payload (r.setWidth 8)).setWidth 8 = 0x80#8 ||| BitVec.ofNat 8 (r.toNat % 128) := by
  congr 1
  apply BitVec.eq_of_toNat_eq
  simp [payload]

/-- Clearing the continuation bit of an emitted byte leaves its payload. -/
theorem emitted_byte_cleared {x : Nat} (h : x < 128) : (0x80#8 ||| BitVec.ofNat 8 x) &&& 0x7f#8 = BitVec.ofNat 8 x := by
  interval_cases x <;> rfl

/-- One round of the encoder, the last byte's continuation bit cleared: the value ends here, or a byte with
the continuation bit set goes first and the rest of the value follows. -/
theorem clearLast_emitLoop_succ (n : Nat) (r : U64) :
    clearLast (emitLoop (n + 2) r) =
      if r.toNat < 128 then [BitVec.ofNat 8 (r.toNat % 128)]
      else (0x80#8 ||| BitVec.ofNat 8 (r.toNat % 128)) :: clearLast (emitLoop (n + 1) (r >>> 7)) := by
  rw [emitLoop, emitted_byte]
  simp only [ushiftRight_seven_eq_zero]
  split_ifs with h
  · rw [clearLast, emitted_byte_cleared (Nat.mod_lt _ (by norm_num))]
  · rw [emitLoop, clearLast]

end Sys2Proof.Machine
end

