-- ==== Sys2Proof/Laws/PerInstr.lean ====
section
/-! SUPPORT. The statement about every instruction as syntax: its command carries its own operation code and,
as spec/opcode_table.json gives it, nothing in the fields it does not use. -/

namespace Sys2Proof.Laws.EncodesItsOperation

/-- The command of an instruction has its operation code, and 0 in the fields it ignores (30_encoding.md
R52, R54, R57). -/
def Statement (i : Instr) : Prop :=
  (encode i).op = i.op ∧
  (i.op.getLsbD 1 = false → (encode i).inAvail = 0#4 ∧ (encode i).inBytes = 0#80) ∧
  (i.op.getLsbD 1 = true → (encode i).value = 0#64)

theorem encu (value : U64) : Statement (.encu value) := by
  simp [Statement, encode, Instr.op]

theorem encs (value : U64) : Statement (.encs value) := by
  simp [Statement, encode, Instr.op]

theorem decu (inBytes : Lanes) (inAvail : Nat) : Statement (.decu inBytes inAvail) := by
  simp [Statement, encode, Instr.op]

theorem decs (inBytes : Lanes) (inAvail : Nat) : Statement (.decs inBytes inAvail) := by
  simp [Statement, encode, Instr.op]

end Sys2Proof.Laws.EncodesItsOperation
end

