-- ==== Sys2Proof/Laws/State.lean ====
section
/-! SUPPORT. One lemma per field of State per named update, true by rfl, so that no proof unfolds a record
update. -/

namespace Sys2Proof.Machine

@[simp] theorem dropEdge_phase (s : State) : (dropEdge s).phase = s.phase := rfl
@[simp] theorem dropEdge_cmdq (s : State) : (dropEdge s).cmdq = s.cmdq := rfl
@[simp] theorem dropEdge_resp (s : State) : (dropEdge s).resp = s.resp := rfl
@[simp] theorem dropEdge_wait (s : State) : (dropEdge s).wait = s.wait := rfl
@[simp] theorem dropEdge_pTenth (s : State) : (dropEdge s).pTenth = s.pTenth := rfl
@[simp] theorem dropEdge_pLat (s : State) : (dropEdge s).pLat = s.pLat := rfl
@[simp] theorem dropEdge_wasReset (s : State) : (dropEdge s).wasReset = s.wasReset := rfl
@[simp] theorem dropEdge_draws (s : State) : (dropEdge s).draws = s.draws := rfl
@[simp] theorem dropEdge_edges (s : State) : (dropEdge s).edges = s.edges.tail := rfl

@[simp] theorem accept_phase (c : Cmd) (s : State) : (accept c s).phase = .busy := rfl
@[simp] theorem accept_cmdq (c : Cmd) (s : State) : (accept c s).cmdq = c := rfl
@[simp] theorem accept_resp (c : Cmd) (s : State) : (accept c s).resp = s.resp := rfl
@[simp] theorem accept_wait (c : Cmd) (s : State) : (accept c s).wait = s.pLat.headD 0 := rfl
@[simp] theorem accept_pTenth (c : Cmd) (s : State) : (accept c s).pTenth = s.pTenth := rfl
@[simp] theorem accept_pLat (c : Cmd) (s : State) : (accept c s).pLat = s.pLat.tail := rfl
@[simp] theorem accept_wasReset (c : Cmd) (s : State) : (accept c s).wasReset = s.wasReset := rfl
@[simp] theorem accept_draws (c : Cmd) (s : State) : (accept c s).draws = s.draws := rfl
@[simp] theorem accept_edges (c : Cmd) (s : State) : (accept c s).edges = s.edges := rfl

@[simp] theorem countDown_phase (s : State) : (countDown s).phase = s.phase := rfl
@[simp] theorem countDown_cmdq (s : State) : (countDown s).cmdq = s.cmdq := rfl
@[simp] theorem countDown_resp (s : State) : (countDown s).resp = s.resp := rfl
@[simp] theorem countDown_wait (s : State) : (countDown s).wait = s.wait - 1 := rfl
@[simp] theorem countDown_pTenth (s : State) : (countDown s).pTenth = s.pTenth := rfl
@[simp] theorem countDown_pLat (s : State) : (countDown s).pLat = s.pLat := rfl
@[simp] theorem countDown_wasReset (s : State) : (countDown s).wasReset = s.wasReset := rfl
@[simp] theorem countDown_draws (s : State) : (countDown s).draws = s.draws := rfl
@[simp] theorem countDown_edges (s : State) : (countDown s).edges = s.edges := rfl

@[simp] theorem release_phase (s : State) : (release s).phase = .idle := rfl
@[simp] theorem release_cmdq (s : State) : (release s).cmdq = s.cmdq := rfl
@[simp] theorem release_resp (s : State) : (release s).resp = s.resp := rfl
@[simp] theorem release_wait (s : State) : (release s).wait = s.wait := rfl
@[simp] theorem release_pTenth (s : State) : (release s).pTenth = s.pTenth := rfl
@[simp] theorem release_pLat (s : State) : (release s).pLat = s.pLat := rfl
@[simp] theorem release_wasReset (s : State) : (release s).wasReset = s.wasReset := rfl
@[simp] theorem release_draws (s : State) : (release s).draws = s.draws := rfl
@[simp] theorem release_edges (s : State) : (release s).edges = s.edges := rfl

@[simp] theorem applyReset_phase (s : State) : (applyReset s).phase = .idle := rfl
@[simp] theorem applyReset_cmdq (s : State) : (applyReset s).cmdq = s.cmdq := rfl
@[simp] theorem applyReset_resp (s : State) : (applyReset s).resp = s.resp := rfl
@[simp] theorem applyReset_wait (s : State) : (applyReset s).wait = s.wait := rfl
@[simp] theorem applyReset_pTenth (s : State) : (applyReset s).pTenth = s.pTenth := rfl
@[simp] theorem applyReset_pLat (s : State) : (applyReset s).pLat = s.pLat := rfl
@[simp] theorem applyReset_wasReset (s : State) : (applyReset s).wasReset = true := rfl
@[simp] theorem applyReset_draws (s : State) : (applyReset s).draws = s.draws := rfl
@[simp] theorem applyReset_edges (s : State) : (applyReset s).edges = s.edges := rfl

@[simp] theorem drawUndefined_phase (s : State) : (drawUndefined s).phase = Config.undefinedPhase s.draws := rfl
@[simp] theorem drawUndefined_cmdq (s : State) : (drawUndefined s).cmdq = Config.undefinedCmdq s.draws := rfl
@[simp] theorem drawUndefined_resp (s : State) : (drawUndefined s).resp = Config.undefinedResp s.draws := rfl
@[simp] theorem drawUndefined_wait (s : State) : (drawUndefined s).wait = s.wait := rfl
@[simp] theorem drawUndefined_pTenth (s : State) : (drawUndefined s).pTenth = s.pTenth := rfl
@[simp] theorem drawUndefined_pLat (s : State) : (drawUndefined s).pLat = s.pLat := rfl
@[simp] theorem drawUndefined_wasReset (s : State) : (drawUndefined s).wasReset = s.wasReset := rfl
@[simp] theorem drawUndefined_draws (s : State) : (drawUndefined s).draws = s.draws + 1 := rfl
@[simp] theorem drawUndefined_edges (s : State) : (drawUndefined s).edges = s.edges := rfl

@[simp] theorem loadCommand_phase (w : Nat) (s : State) : (loadCommand w s).phase = .busy := rfl
@[simp] theorem loadCommand_cmdq (w : Nat) (s : State) : (loadCommand w s).cmdq = Cmd.ofWord (BitVec.ofNat 150 w) := rfl
@[simp] theorem loadCommand_resp (w : Nat) (s : State) : (loadCommand w s).resp = s.resp := rfl
@[simp] theorem loadCommand_wait (w : Nat) (s : State) : (loadCommand w s).wait = 0 := rfl
@[simp] theorem loadCommand_pTenth (w : Nat) (s : State) : (loadCommand w s).pTenth = s.pTenth := rfl
@[simp] theorem loadCommand_pLat (w : Nat) (s : State) : (loadCommand w s).pLat = s.pLat := rfl
@[simp] theorem loadCommand_wasReset (w : Nat) (s : State) : (loadCommand w s).wasReset = true := rfl
@[simp] theorem loadCommand_draws (w : Nat) (s : State) : (loadCommand w s).draws = s.draws := rfl
@[simp] theorem loadCommand_edges (w : Nat) (s : State) : (loadCommand w s).edges = PortIn.quiet :: s.edges := rfl

end Sys2Proof.Machine
end

