-- ==== Sys2Proof/Laws/Step.lean ====
section
/-! SUPPORT. What the shared operations and one step can do, said once: `respond`, `exec`, the schedule of
inputs, the inversion of `step`, and one edge of `runEdges` and `history`. -/

namespace Sys2Proof.Machine

/-- `respond` always goes on, and this is all it writes. -/
theorem respond_eq (r : Resp) (s : State) : respond r s = .next { s with resp := r, phase := .done } := rfl

@[simp] theorem txnOf_phase (s : State) : (txnOf s).phase = s.phase := rfl
@[simp] theorem txnOf_cmdq (s : State) : (txnOf s).cmdq = s.cmdq := rfl
@[simp] theorem txnOf_resp (s : State) : (txnOf s).resp = s.resp := rfl

/-- What a final state is, as a proposition (10_state.md R31). -/
theorem isFinal_iff (s : State) : isFinal s = true ↔ s.phase = .idle ∧ ∀ p ∈ s.edges, p.cmdValid = false := by
  unfold isFinal hostHasCommands
  simp

/-- The next edge presents nothing when no edge to come does. -/
theorem nextEdge_cmdValid_of_forall {s : State} (h : ∀ p ∈ s.edges, p.cmdValid = false) :
    (nextEdge s).cmdValid = false := by
  unfold nextEdge
  cases hs : s.edges with
  | nil => rfl
  | cons p rest => exact h p (by simp [hs])

/-- Every operation ends through `respond`. -/
theorem exec_eq_respond (i : Instr) (s : State) : ∃ r, exec i s = respond r s := by
  cases i <;> exact ⟨_, rfl⟩

/-- The next edge's inputs are entry 0 of the schedule. -/
theorem nextEdge_eq_getD (s : State) : nextEdge s = s.edges.getD 0 PortIn.quiet := by
  unfold nextEdge
  cases s.edges <;> rfl

/-- Entry `k` after an edge is entry `k + 1` before it. -/
theorem getD_tail (l : List PortIn) (k : Nat) : l.tail.getD k PortIn.quiet = l.getD (k + 1) PortIn.quiet := by
  cases l <;> simp

/-- What a step that goes on did: one of the transitions of 10_state.md R23 to R28, nothing but the edge, or
an edge before the first reset. -/
theorem step_next_cases {s t : State} (h : step s = .next t) :
    ((nextEdge s).rst = true ∧ t = applyReset (dropEdge s)) ∨
    ((nextEdge s).rst = false ∧ s.wasReset = true ∧
      ((s.phase = .idle ∧ (nextEdge s).cmdValid = true ∧
          ∃ c, (nextEdge s).cmd = some c ∧ t = accept c (dropEdge s)) ∨
       (s.phase = .idle ∧ (nextEdge s).cmdValid = false ∧ t = dropEdge s) ∨
       (s.phase = .busy ∧ s.wait = 0 ∧ exec (decode s.cmdq) (dropEdge s) = .next t) ∨
       (s.phase = .busy ∧ s.wait ≠ 0 ∧ t = countDown (dropEdge s)) ∨
       (s.phase = .done ∧ (nextEdge s).respReady = true ∧ t = release (dropEdge s)) ∨
       (s.phase = .done ∧ (nextEdge s).respReady = false ∧ t = dropEdge s))) ∨
    ((nextEdge s).rst = false ∧ s.wasReset = false ∧ (nextEdge s).cmdValid = false ∧
      t = drawUndefined (dropEdge s)) := by
  simp only [step, clockEdge, edgeWith] at h
  generalize nextEdge s = p at h ⊢
  cases hr : p.rst
  · rw [hr, if_neg Bool.false_ne_true] at h
    cases hw : s.wasReset
    · rw [if_neg (show ¬ (dropEdge s).wasReset = true by simp [hw])] at h
      cases hv : p.cmdValid <;> simp [undefinedEdge, hv] at h
      simp [h]
    · rw [if_pos (show (dropEdge s).wasReset = true from hw)] at h
      cases hp : s.phase <;> simp only [dropEdge_phase, hp] at h
      · cases hv : p.cmdValid <;> simp only [idleEdge, hv] at h
        · simp at h
          simp [h]
        · cases hc : p.cmd <;> simp [hc] at h
          simp [h]
      · by_cases hz : s.wait = 0
        · rw [busyEdge, if_pos (by simpa using hz)] at h
          simpa [hz] using h
        · rw [busyEdge, if_neg (by simpa using hz)] at h
          simp at h
          simp [hz, h]
      · cases hy : p.respReady <;> simp [doneEdge, hy] at h <;> simp [h]
  · rw [if_pos hr] at h
    simp at h
    simp [h]

/-- One edge of a run. -/
theorem runEdges_of_step {n : Nat} {s t : State} (h : step s = .next t) : runEdges (n + 1) s = runEdges n t := by
  rw [runEdges, h]

/-- One edge of a history. -/
theorem history_of_step {n : Nat} {s t : State} (h : step s = .next t) :
    history (n + 1) s = eventOf s :: history n t := by
  rw [history, h]

/-- A run that goes on went through its first step. -/
theorem runEdges_succ_next {n : Nat} {s u : State} (h : runEdges (n + 1) s = .next u) :
    ∃ t, step s = .next t ∧ runEdges n t = .next u := by
  rw [runEdges] at h
  cases hs : step s with
  | next t => exact ⟨t, rfl, by simpa [hs] using h⟩
  | fault r => cases r
  | refused r => simp [hs] at h

/-- A run in two parts. -/
theorem runEdges_add {n m : Nat} {s t : State} (h : runEdges n s = .next t) :
    runEdges (n + m) s = runEdges m t := by
  induction n generalizing s with
  | zero => cases h; rw [Nat.zero_add]
  | succ n ih =>
    obtain ⟨u, hu, hn⟩ := runEdges_succ_next h
    rw [Nat.succ_add, runEdges_of_step hu, ih hn]

/-- `runEdges` is the run of the host's interface. -/
theorem runEdges_eq_core_run (n : Nat) (s : State) : runEdges n s = Host.Core.run Sys2Proof.core n s := by
  induction n generalizing s with
  | zero => rfl
  | succ n ih =>
    cases hs : step s with
    | next t =>
      have hc : Sys2Proof.core.step s = .next t := hs
      rw [runEdges_of_step hs, ih t]
      simp only [Host.Core.run, hc]
      rfl
    | fault r => cases r
    | refused r =>
      have hc : Sys2Proof.core.step s = .refused r := hs
      simp only [runEdges, hs, Host.Core.run, hc]
      rfl

end Sys2Proof.Machine
end

