-- ==== Sys2Proof/Tests/Slice0.lean ====
section
/-! SUPPORT. The model's own tests. Expected results are those of spec/95_test_vectors.md (the section is named
at each test); the witnesses show, for each statement with hypotheses, a state and operands that meet them. -/

namespace Sys2Proof.Tests

open Sys2Proof Sys2Proof.Machine

/-- The response word a step or an operation leaves, if it goes on. -/
def respAfter : Host.Outcome State Fault Refusal → Option (BitVec 150)
  | .next s => some s.resp.word
  | _ => none

/-- The phase a step leaves, if it goes on. -/
def phaseAfter : Host.Outcome State Fault Refusal → Option Phase
  | .next s => some s.phase
  | _ => none

/-- A block in IDLE with the given inputs to come. -/
def idleWith (edges : List PortIn) : State := { State.reset with edges := edges }

/-- A block in BUSY with a command word, `wait` edges before the one that completes it. -/
def busyWith (word : BitVec 150) (wait : Nat) (edges : List PortIn) : State :=
  { State.reset with phase := .busy, cmdq := Cmd.ofWord word, wait := wait, edges := edges }

/-- A block in DONE with a response word. -/
def doneWith (word : BitVec 150) (edges : List PortIn) : State :=
  { State.reset with phase := .done, resp := Resp.ofWord word, edges := edges }

/-- An edge with a command presented. -/
def present (word : BitVec 150) : PortIn := { PortIn.quiet with cmdValid := true, cmd := some (Cmd.ofWord word) }

/-- An edge with `rst` = 1. -/
def resetEdge : PortIn := { PortIn.quiet with rst := true }

/-- An edge with `resp_ready` = 1. -/
def take : PortIn := { PortIn.quiet with respReady := true }

/-! ### WellFormed: `in_avail` has 4 bits (30_encoding.md R48) -/

theorem test_decu_avail_16_is_ill_formed : (Instr.decu 0#80 16).wellFormed = false := by decide
theorem test_decs_avail_16_is_ill_formed : (Instr.decs 0#80 16).wellFormed = false := by decide
theorem test_decu_avail_15_is_well_formed : (Instr.decu 0#80 15).wellFormed = true := by decide

/-! ### Decode: words written out from 30_encoding.md R48 and R52 (95_test_vectors.md section 2.5) -/

/-- `ENCU 300`: `op` 00, `in_avail` 0000, `value` 300 from bit 6. -/
theorem test_decode_encu : decodeWord 0b100101100_0000_00 = .ok (.encu 300#64) := by rfl
/-- `ENCS 5`: `op` 01, `in_avail` 0000, `value` 5 from bit 6. -/
theorem test_decode_encs : decodeWord 0b101_0000_01 = .ok (.encs 5#64) := by rfl
/-- `DECU [AC 02], 2`: `op` 10, `in_avail` 0010, `value` 0, then `AC` at bits 77..70 and `02` at 85..78. -/
theorem test_decode_decu :
    decodeWord (0b10 + 2 * 2 ^ 2 + 0xAC * 2 ^ 70 + 0x02 * 2 ^ 78) = .ok (.decu 0x02AC#80 2) := by rfl
/-- `DECS [D7 04], 2`. -/
theorem test_decode_decs : decodeWord 0x135C0000000000000000B = .ok (.decs 0x04D7#80 2) := by rfl
/-- Bit 150 is no bit of a command word. -/
theorem test_decode_refuses_bit_150 : decodeWord (2 ^ 150) = .error .notACommandWord := by rfl
/-- `ENCS -300` assembles to the word of section 2.5. -/
theorem test_assemble_encs : (Listing.encs (-300)).assemble.word = 0x3FFFFFFFFFFFFFB501#150 := by decide
/-- `DECU [AC 02 01 80 01], 5` of program P2. -/
theorem test_assemble_decu :
    (Listing.decu [0xAC, 0x02, 0x01, 0x80, 0x01] none).assemble.word = 0x600040AB000000000000000016#150 := by decide
/-- The host's table words: the op code alone, every operand 0. -/
theorem test_table_words : decodeTableWord 8 0 = some (.encu 0#64) ∧ decodeTableWord 8 1 = some (.encs 0#64) ∧
    decodeTableWord 8 2 = some (.decu 0#80 0) ∧ decodeTableWord 8 3 = some (.decs 0#80 0) := by decide

/-! ### The operations (sections 2.1 to 2.5) -/

/-- Section 2.5, `ENCU 300`. -/
theorem test_encu_300 : respAfter (execEncu 300#64 State.reset) = some 0xAB000000000000004B08#150 := by decide
/-- Section 2.1, `0x0123456789ABCDEF -> EF 9B AF CD F8 AC D1 91 01`, `len` 9. -/
theorem test_encu_mixed_bits :
    encU 0x0123456789ABCDEF#64 = [0xEF, 0x9B, 0xAF, 0xCD, 0xF8, 0xAC, 0xD1, 0x91, 0x01] := by decide
/-- Section 2.5, `ENCS -300`. -/
theorem test_encs_minus_300 :
    respAfter (execEncs 0xFFFFFFFFFFFFFED4#64 State.reset) = some 0x135C000000000000095C8#150 := by decide
/-- Program P3, `ENCS INT64_MIN`. -/
theorem test_encs_int64_min :
    respAfter (execEncs 0x8000000000000000#64 State.reset) =
      some 0x7FFFFFFFFFFFFFFFFFFFFFFFFFFFFFFFFFE8#150 := by decide
/-- Section 2.3, `E5 8E 26, 3 -> OK, 3, 624485`. -/
theorem test_decu_624485 : decU .malformed 0x268EE5#80 3 = ⟨.ok, 624485#64, 3⟩ := by decide
/-- Section 2.3, `FF ×9 02, 10`: `MALFORMED, 10, 0`, or `OK, 10, 0x7FFFFFFFFFFFFFFF` under TRUNCATE. -/
theorem test_decu_tenth_byte_overflow :
    decU .malformed 0x02FFFFFFFFFFFFFFFFFF#80 10 = ⟨.malformed, 0#64, 10⟩ ∧
    decU .truncate 0x02FFFFFFFFFFFFFFFFFF#80 10 = ⟨.ok, 0x7FFFFFFFFFFFFFFF#64, 10⟩ := by decide
/-- Program P3, `DECS [FF ×9 01], 10`. -/
theorem test_decs_int64_min :
    respAfter (execDecs 0x01FFFFFFFFFFFFFFFFFF#80 10 State.reset) = some 0x200000000000000028#150 := by decide
/-- Section 2.4, `81, 1 -> INCOMPLETE, 1`, value 0. -/
theorem test_decs_incomplete : respAfter (execDecs 0x81#80 1 State.reset) = some 0x5#150 := by decide

/-! ### The operation cycle (section 3, programs P1 and P5, one edge each) -/

/-- P1, edge 1: ACCEPT. -/
theorem test_accept : phaseAfter (step (idleWith [present 0x4B00#150])) = some .busy := by decide
/-- P1, edge 2: COMPLETE. -/
theorem test_complete :
    respAfter (step (busyWith 0x4B00#150 0 [])) = some 0xAB000000000000004B08#150 ∧
    phaseAfter (step (busyWith 0x4B00#150 0 [])) = some .done := by decide
/-- P1, edge 3: RELEASE; the command presented at that edge is not accepted. -/
theorem test_release_does_not_accept :
    phaseAfter (step (doneWith 0x4B08#150 [{ present 0x2000#150 with respReady := true }])) = some .idle := by decide
/-- P5, edge 2: a reset in BUSY abandons the command, at its completing edge too. -/
theorem test_reset_abandons :
    phaseAfter (step (busyWith 0x40#150 0 [resetEdge])) = some .idle ∧
    respAfter (step (busyWith 0x40#150 0 [resetEdge])) = some 0#150 := by decide
/-- P5, edge 4: with `P_LAT` = 2 the first edge after ACCEPT completes nothing. -/
theorem test_wait : phaseAfter (step (busyWith 0x140#150 1 [])) = some .busy := by decide
/-- 10_state.md R30: a command before the first reset is refused. -/
theorem test_before_reset :
    (match step { idleWith [present 0x40#150] with wasReset := false } with
      | .refused .commandBeforeReset => true | _ => false) = true := by decide
/-- The table word of `DECU` runs right after reset: an empty buffer is INCOMPLETE (section 2.3). -/
theorem test_with_fetch_word : respAfter (step (State.reset.withFetchWord 8 2)) = some 1#150 := by decide
/-- 10_state.md R31: final in IDLE with no more commands, not with one to come, not in BUSY or DONE. -/
theorem test_isFinal : isFinal State.reset = true ∧ isFinal (idleWith [take, present 0x40#150]) = false ∧
    isFinal (busyWith 0x40#150 0 []) = false ∧ isFinal (doneWith 0x4B08#150 []) = false := by decide
/-- Program P2: the stream `AC 02 01 80 01` holds 300, 1, 128. -/
theorem test_parse_stream :
    parseStream (decodeUnsigned .malformed) 5 [0xAC, 0x02, 0x01, 0x80, 0x01] = ([300#64, 1#64, 128#64], none) := by
  decide

/-! ### Witnesses: the hypotheses of the statements can be met, clause by clause -/

theorem witness_DecodeOfEncodeIsTheInstruction : (Instr.decs 0x04D7#80 15).wellFormed = true := by decide
theorem witness_EveryCommandWordDecodes : 2 ^ 150 - 1 < 2 ^ 150 ∧ 2 ^ 150 ≤ 2 ^ 150 := by decide
theorem witness_OperationMapSelectsOneOfFour :
    (Cmd.ofWord 0x4B00#150).op = 0b00#2 ∧ (Cmd.ofWord 0x4B01#150).op = 0b01#2 ∧
    (Cmd.ofWord 0x4B02#150).op = 0b10#2 ∧ (Cmd.ofWord 0x4B03#150).op = 0b11#2 := by decide
/-- Commands that differ in every field they ignore. -/
theorem witness_IgnoredFieldsHaveNoEffect :
    (let c : Cmd := ⟨0b01#2, 3#4, 7#64, 0xFF#80⟩; let d : Cmd := ⟨0b01#2, 9#4, 7#64, 0x80#80⟩
     c.op = d.op ∧ c.op.getLsbD 1 = false ∧ c.value = d.value ∧ c ≠ d) ∧
    (let c : Cmd := ⟨0b10#2, 3#4, 7#64, 0xFF#80⟩; let d : Cmd := ⟨0b10#2, 3#4, 8#64, 0xFF#80⟩
     c.op = d.op ∧ c.op.getLsbD 1 = true ∧ c.inBytes = d.inBytes ∧ c.inAvail = d.inAvail ∧ c ≠ d) := by decide
/-- Lane 9, the last. -/
theorem witness_ListedBytesFillTheLanes : 9 < 10 ∧ lane (packLanes (List.replicate 9 0x80#8 ++ [0x05#8])) 9 = 0x05#8 := by
  decide
theorem witness_ListingsAssembleToTheirCommands :
    (Listing.decu [0x81] (some 15)).instr.wellFormed = true ∧
    (Listing.encs (-1)).assemble.op.getLsbD 1 = false ∧
    (Listing.decs [0x81] none).assemble.op.getLsbD 1 = true := by decide
/-- Lanes 0 and 9 (every lane below 10 is meant). -/
theorem witness_EncuAnswersTheMinimalEncoding : closedLane 0x8000000000000000#64 0 = 0x80#8 ∧
    closedLane 0x8000000000000000#64 9 = 0x01#8 := by decide
/-- Both signs. -/
theorem witness_EncsAnswersTheEncodingOfTheZigZagImage :
    0 ≤ (0#64).toInt ∧ ¬ 0 ≤ (0xFFFFFFFFFFFFFFFF#64).toInt := by decide
/-- The clauses of DECU: a first terminator at lane 0 and at lane 9, accepted and rejected, no terminator in
0, in 9 and in 10 bytes. -/
theorem witness_DecuAnswersByItsFirstTerminator :
    (FirstTerminator 0x01#80 (min 1 10) 0 ∧ ¬ TenthRejected .malformed 0x01#80 0) ∧
    (FirstTerminator 0x01FFFFFFFFFFFFFFFFFF#80 (min 15 10) 9 ∧
      ¬ TenthRejected .malformed 0x01FFFFFFFFFFFFFFFFFF#80 9) ∧
    (FirstTerminator 0x02FFFFFFFFFFFFFFFFFF#80 (min 10 10) 9 ∧
      TenthRejected .malformed 0x02FFFFFFFFFFFFFFFFFF#80 9 ∧
      ¬ TenthRejected .truncate 0x02FFFFFFFFFFFFFFFFFF#80 9) ∧
    (0 < 10 ∧ NoTerminator 0x00#80 0) ∧
    (9 < 10 ∧ NoTerminator 0x80808080808080808080#80 9) ∧
    (10 ≤ 15 ∧ NoTerminator 0x80808080808080808080#80 10) := by decide
/-- The three statuses and the three clauses. -/
theorem witness_DecodeStatusByPriority :
    (decU .malformed 0x01#80 1).status = .ok ∧ (decU .malformed 0x80#80 1).status = .incomplete ∧
    (decU .malformed 0x80808080808080808080#80 10).status = .malformed := by decide
/-- An even, an odd and a failed DECU. -/
theorem witness_DecsAnswersTheInverseZigZagOfDecu :
    (decU .malformed 0x02#80 1).value.toNat % 2 = 0 ∧ (decU .malformed 0x03#80 1).value.toNat % 2 = 1 ∧
    statusCode (decU .malformed 0x81#80 1).status ≠ 0#2 := by decide
/-- An encode whose lanes end early, and decodes with each status. -/
theorem witness_EveryResponseIsOneTheSpecAllows :
    (execute .malformed ⟨0b00#2, 0#4, 0#64, 0#80⟩).len.toNat ≤ 1 ∧
    (execute .malformed ⟨0b10#2, 1#4, 0#64, 0x00#80⟩).status = 0#2 ∧
    (execute .malformed ⟨0b11#2, 9#4, 0#64, 0x80808080808080808080#80⟩).status = 1#2 ∧
    (execute .malformed ⟨0b11#2, 10#4, 0#64, 0x80808080808080808080#80⟩).status = 2#2 := by decide
/-- The two ends of the range table. -/
theorem witness_EncodingLengthByRange :
    (encU 127#64).length ≤ 1 ∧ (encU 0x7FFFFFFFFFFFFFFF#64).length ≤ 9 ∧
    (encU 0x8000000000000000#64).length = 10 := by decide
theorem witness_EncodingGuarantees : 2 ≤ (encU 128#64).length ∧ 1 < (encU 128#64).length ∧ encU 5#64 = encU 5#64 := by
  decide
/-- The first bit and the last payload bit of a tenth byte. -/
theorem witness_EncodingBitMapping :
    (0 < (encU 0#64).length ∧ 0 < 7) ∧ (9 < (encU 0xFFFFFFFFFFFFFFFF#64).length ∧ 6 < 7) := by decide
theorem witness_TenthByteOfAnEncodingIsOne : (encU 0xFFFFFFFFFFFFFFFF#64).length = 10 := by decide
/-- Windows that differ after the terminator, and past the bytes available. -/
theorem witness_UnreadLanesHaveNoEffect :
    (∀ k < min 2 10, NoTerminator 0xFF01#80 k → lane 0xFF01#80 k = lane 0x0001#80 k) ∧
    (∀ k < min 1 10, NoTerminator 0x0080#80 k → lane 0x0080#80 k = lane 0x0180#80 k) := by decide
theorem witness_CountsPastTenMeanTen : 10 ≤ 15 := by decide
theorem witness_TenthPolicyMattersOnlyOnTenthByteOverflow :
    FirstTerminator 0x7FFFFFFFFFFFFFFFFFFF#80 (min 10 10) 9 ∧
    hasHighPayload (lane 0x7FFFFFFFFFFFFFFFFFFF#80 9) = true := by decide
/-- A one-byte and a ten-byte encoding, with other bytes behind the first. -/
theorem witness_UnsignedRoundTrip :
    ((∀ k < (encU 5#64).length, lane 0xFF05#80 k = (encU 5#64).getD k 0x00#8) ∧ (encU 5#64).length ≤ 1) ∧
    ((∀ k < (encU 0xFFFFFFFFFFFFFFFF#64).length,
        lane 0x01FFFFFFFFFFFFFFFFFF#80 k = (encU 0xFFFFFFFFFFFFFFFF#64).getD k 0x00#8) ∧
      (encU 0xFFFFFFFFFFFFFFFF#64).length ≤ 10) := by decide
/-- A sequence that is not minimal, `80 00`. -/
theorem witness_WellFormedSequencesAreAccepted :
    WellFormedEncoding [0x80, 0x00] ∧ (∀ k < 2, lane 0x0080#80 k = [0x80#8, 0x00#8].getD k 0x00#8) ∧ 2 ≤ 2 := by decide
/-- `n` = 1 and `n` = 9, at both ends of their ranges, and length 10 on both sides (42_zig_zag.md R85). -/
theorem witness_SignedEncodingLengthByRange :
    (encU (zz 63#64)).length ≤ 1 ∧ (encU (zz 0xC000000000000000#64)).length ≤ 9 ∧
    (encU (zz 0x4000000000000000#64)).length = 10 ∧ (encU (zz 0xBFFFFFFFFFFFFFFF#64)).length = 10 := by decide
theorem witness_SignedRoundTripThroughTheOperations :
    (∀ k < (encodeResp (zz 0xFFFFFFFFFFFFFED4#64)).len.toNat,
      lane 0x5504D7#80 k = lane (encodeResp (zz 0xFFFFFFFFFFFFFED4#64)).bytes k) ∧
    (encodeResp (zz 0xFFFFFFFFFFFFFED4#64)).len.toNat ≤ 2 := by decide
theorem witness_StreamsOfEncodingsParseBack :
    [300#64, 1#64].length ≤ 2 ∧
    ∀ v ∈ ([-9223372036854775808, 9223372036854775807] : List Int), -(2 ^ 63) ≤ v ∧ v ≤ 2 ^ 63 - 1 := by decide
theorem witness_OutputPortsFollowThePhase :
    respValid (doneWith 0x4B08#150 []) = true ∧ respValid State.reset = false := by decide
/-- IDLE with a command, IDLE without one, and another phase. -/
theorem witness_CommandsAreSampledOnlyAtAccept :
    ((idleWith [present 0x40#150]).wasReset = true ∧ (idleWith [present 0x40#150]).phase = .idle ∧
      (present 0x40#150).rst = false ∧ (present 0x40#150).cmdValid = true ∧
      (present 0x40#150).cmd = some (Cmd.ofWord 0x40#150)) ∧
    ((idleWith [take]).phase = .idle ∧ take.rst = false ∧ take.cmdValid = false) ∧
    (busyWith 0x40#150 0 [present 0x140#150]).phase ≠ .idle := by decide
theorem witness_UnstableCommandIsRefused :
    let p : PortIn := { present 0x40#150 with cmd := none }
    (idleWith [p]).wasReset = true ∧ (idleWith [p]).edges = [p] ∧ p.rst = false ∧ (idleWith [p]).phase = .idle ∧
      p.cmdValid = true ∧ p.cmd = none := by decide
/-- At the completing edge and one before it. -/
theorem witness_StepRunsTheDecodedCommand :
    ((busyWith 0x4B00#150 0 []).wasReset = true ∧ (busyWith 0x4B00#150 0 []).phase = .busy ∧
      (nextEdge (busyWith 0x4B00#150 0 [])).rst = false ∧ (busyWith 0x4B00#150 0 []).wait = 0) ∧
    (busyWith 0x4B00#150 1 []).wait ≠ 0 := by decide
theorem witness_LoadedTableWordRunsNext : decodeTableWord 152 0xAB00000000000000000A = some (.decu 0x02AC#80 2) := by
  decide
/-- `P_LAT` = 2, with the edges P5 gives. -/
theorem witness_CompleteFallsOnThePLatEdge :
    let s : State := { idleWith [present 0x140#150] with pLat := [1] }
    s.wasReset = true ∧ s.phase = .idle ∧ (nextEdge s).cmdValid = true ∧
      (nextEdge s).cmd = some (Cmd.ofWord 0x140#150) ∧
      ∀ k ≤ s.pLat.headD 0 + 1, (s.edges.getD k PortIn.quiet).rst = false := by decide
theorem witness_ReleaseWaitsForTheHost :
    ((doneWith 0x4B08#150 [take]).wasReset = true ∧ (doneWith 0x4B08#150 [take]).phase = .done ∧
      (nextEdge (doneWith 0x4B08#150 [take])).rst = false ∧
      (nextEdge (doneWith 0x4B08#150 [take])).respReady = true) ∧
    (nextEdge (doneWith 0x4B08#150 [])).respReady = false := by decide
theorem witness_ResetTakesPriorityOverEverything : (nextEdge (busyWith 0x40#150 0 [resetEdge])).rst = true := by decide
theorem witness_ResetSequenceReadiesTheBlock :
    let s : State := { busyWith 0x40#150 3 [resetEdge, resetEdge, present 0x140#150] with wasReset := false }
    s.edges = [resetEdge, resetEdge] ++ present 0x140#150 :: [] ∧ [resetEdge, resetEdge] ≠ [] ∧
      (∀ q ∈ [resetEdge, resetEdge], q.rst = true) ∧ (present 0x140#150).rst = false ∧
      (present 0x140#150).cmdValid = true ∧ (present 0x140#150).cmd = some (Cmd.ofWord 0x140#150) := by decide
theorem witness_NoCommandBeforeTheFirstReset :
    let s : State := { idleWith [present 0x40#150] with wasReset := false }
    let t : State := { idleWith [] with wasReset := false }
    (s.wasReset = false ∧ (nextEdge s).rst = false ∧ (nextEdge s).cmdValid = true) ∧
    (t.wasReset = false ∧ (nextEdge t).rst = false ∧ (nextEdge t).cmdValid = false) := by decide
theorem witness_OnlyTheNamedTransitionsWriteEachElement :
    (idleWith [present 0x40#150]).wasReset = true ∧
    phaseAfter (step (idleWith [present 0x40#150])) = some .busy := by decide
/-- A run of two edges: ACCEPT and COMPLETE. -/
theorem witness_RunsRefineTheTransactionModel :
    (idleWith [present 0x4B00#150]).wasReset = true ∧
    respAfter (runEdges 2 (idleWith [present 0x4B00#150])) = some 0xAB000000000000004B08#150 := by decide
/-- IDLE with an edge still to come that presents nothing. -/
theorem witness_FinalStatesEndTheRun :
    (idleWith [take]).wasReset = true ∧ isFinal (idleWith [take]) = true := by decide
/-- `P_LAT` = 2: COMPLETE at the second edge, the response taken at the third. -/
theorem witness_BusyRunsEndOnceTheResponseIsTaken :
    let s := busyWith 0x4B00#150 1 [PortIn.quiet, PortIn.quiet, take]
    s.wasReset = true ∧ s.phase = .busy ∧ hostHasCommands s = false ∧
      (∀ k ≤ s.wait + 1, (s.edges.getD k PortIn.quiet).rst = false) ∧
      (s.edges.getD (s.wait + 1) PortIn.quiet).respReady = true := by decide
theorem witness_OneResponsePerCommandInOrder :
    let s := idleWith [present 0x4B00#150]
    s.wasReset = true ∧ s.phase = .idle ∧ phaseAfter (runEdges 2 s) = some .done ∧
      (∀ e ∈ history 2 s, e ≠ .reset) ∧ accepted (history 2 s) = [Cmd.ofWord 0x4B00#150] := by decide
theorem witness_StepKeepsShowingItsAnswer :
    ShowsItsAnswer { doneWith 0x4B08#150 [] with cmdq := Cmd.ofWord 0xAB00000000000000000A#150 } ∧
    phaseAfter (step { doneWith 0x4B08#150 [] with cmdq := Cmd.ofWord 0xAB00000000000000000A#150 }) =
      some .done := by decide
theorem witness_OldRegistersAreUnobservable :
    (idleWith [present 0x40#150]).wasReset = true ∧ (idleWith [present 0x40#150]).phase = .idle := by decide
/-- `P_LAT` = 1 with a host that always presents `ENCU 1` and always takes the response (program P1's timing). -/
theorem witness_IssueSpacing :
    let p : PortIn := { present 0x40#150 with respReady := true }
    let s := idleWith [p, p, p, p]
    s.wasReset = true ∧ s.phase = .idle ∧ ∀ k ≤ s.pLat.headD 0 + 3,
      (s.edges.getD k PortIn.quiet).rst = false ∧ (s.edges.getD k PortIn.quiet).cmdValid = true ∧
      (s.edges.getD k PortIn.quiet).cmd ≠ none ∧ (s.edges.getD k PortIn.quiet).respReady = true := by decide
/-- Two blocks of one system, each taking an edge of its own. -/
theorem witness_InstancesAreIndependent :
    let system := [idleWith [present 0x40#150], busyWith 0x4B00#150 0 []]
    0 ≠ 1 ∧ (match stepInstance 0 system with
      | .next a => (match stepInstance 1 a with | .next _ => true | _ => false)
      | _ => false) = true := by decide

end Sys2Proof.Tests
end

section
/-! SUPPORT. The encoder's closed form (40_varint_encoder.md R61, R62), what the decoder's loop accumulates
(41_varint_decoder.md R70), and well-formed sequences (00_scope.md R12). -/

namespace Sys2Proof.Machine

/-! #### The encoder's closed form -/

/-- A value below 128 is one byte, however many rounds are left. -/
theorem clearLast_emitLoop_of_lt_128 (n : Nat) {r : U64} (h : r.toNat < 128) :
    clearLast (emitLoop (n + 1) r) = [BitVec.ofNat 8 (r.toNat % 128)] := by
  rw [emitLoop, if_pos ((ushiftRight_seven_eq_zero r).2 h), emitted_byte, clearLast,
    emitted_byte_cleared (Nat.mod_lt _ (by norm_num))]

/-- A value of 128 or more is a continuation byte and the encoding of the rest. -/
theorem clearLast_emitLoop_of_ge_128 (n : Nat) {r : U64} (h : 128 ≤ r.toNat) :
    clearLast (emitLoop (n + 2) r) =
      (0x80#8 ||| BitVec.ofNat 8 (r.toNat % 128)) :: clearLast (emitLoop (n + 1) (r >>> 7)) := by
  rw [clearLast_emitLoop_succ, if_neg (by omega)]

/-- One group of 7 bits less. -/
theorem toNat_ushiftRight_seven_lt {n : Nat} {r : U64} (h : r.toNat < 2 ^ (7 * (n + 1))) :
    (r >>> 7).toNat < 2 ^ (7 * n) := by
  rw [BitVec.toNat_ushiftRight, Nat.shiftRight_eq_div_pow, Nat.div_lt_iff_lt_mul (by norm_num), ← pow_add]
  exact h

/-- The encoder emits `minimalLength` bytes (40_varint_encoder.md R61). -/
theorem length_clearLast_emitLoop {n : Nat} {r : U64} (h : r.toNat < 2 ^ (7 * (n + 1))) :
    (clearLast (emitLoop (n + 1) r)).length = minimalLength r := by
  induction n generalizing r with
  | zero => rw [clearLast_emitLoop_of_lt_128 0 h, minimalLength_of_lt_128 h, List.length_singleton]
  | succ n ih =>
    rcases Nat.lt_or_ge r.toNat 128 with hr | hr
    · rw [clearLast_emitLoop_of_lt_128 _ hr, minimalLength_of_lt_128 hr, List.length_singleton]
    · rw [clearLast_emitLoop_of_ge_128 n hr, minimalLength_of_ge_128 hr, List.length_cons,
        ih (toNat_ushiftRight_seven_lt h)]

/-- The closed form of a value's lanes when one byte holds it. -/
theorem closedLane_of_lt_128 {r : U64} (h : r.toNat < 128) (k : Nat) :
    closedLane r k = [BitVec.ofNat 8 (r.toNat % 128)].getD k 0x00#8 := by
  unfold closedLane
  rw [minimalLength_of_lt_128 h]
  cases k <;> simp

/-- The first lane of a longer encoding is a continuation byte. -/
theorem closedLane_zero_of_ge_128 {r : U64} (h : 128 ≤ r.toNat) :
    closedLane r 0 = 0x80#8 ||| BitVec.ofNat 8 (r.toNat % 128) := by
  have h1 := one_le_minimalLength (r >>> 7)
  unfold closedLane
  rw [minimalLength_of_ge_128 h, if_pos (by omega)]
  simp

/-- The later lanes of a longer encoding are those of the value without its low 7 bits. -/
theorem closedLane_succ_of_ge_128 {r : U64} (h : 128 ≤ r.toNat) (k : Nat) :
    closedLane r (k + 1) = closedLane (r >>> 7) k := by
  have hdiv : (r >>> 7).toNat / 2 ^ (7 * k) = r.toNat / 2 ^ (7 * (k + 1)) := by
    rw [BitVec.toNat_ushiftRight, Nat.shiftRight_eq_div_pow, Nat.div_div_eq_div_mul, ← pow_add]
    ring_nf
  unfold closedLane
  rw [minimalLength_of_ge_128 h, hdiv]
  simp

/-- The bytes the encoder emits are the lanes of the closed form (40_varint_encoder.md R62). -/
theorem getD_clearLast_emitLoop {n : Nat} {r : U64} (h : r.toNat < 2 ^ (7 * (n + 1))) (k : Nat) :
    (clearLast (emitLoop (n + 1) r)).getD k 0x00#8 = closedLane r k := by
  induction n generalizing r k with
  | zero => rw [clearLast_emitLoop_of_lt_128 0 h, closedLane_of_lt_128 h]
  | succ n ih =>
    rcases Nat.lt_or_ge r.toNat 128 with hr | hr
    · rw [clearLast_emitLoop_of_lt_128 _ hr, closedLane_of_lt_128 hr]
    · rw [clearLast_emitLoop_of_ge_128 n hr]
      cases k with
      | zero => rw [closedLane_zero_of_ge_128 hr, List.getD_cons_zero]
      | succ k => rw [closedLane_succ_of_ge_128 hr, List.getD_cons_succ, ih (toNat_ushiftRight_seven_lt h)]

/-- The length of an encoding (40_varint_encoder.md R61). -/
theorem length_encU (u : U64) : (encU u).length = minimalLength u :=
  length_clearLast_emitLoop (n := 9) (lt_of_lt_of_le u.isLt (by norm_num))

/-- The bytes of an encoding (40_varint_encoder.md R62). -/
theorem getD_encU (u : U64) (k : Nat) : (encU u).getD k 0x00#8 = closedLane u k :=
  getD_clearLast_emitLoop (n := 9) (lt_of_lt_of_le u.isLt (by norm_num)) k

/-! #### Every encoding is well-formed -/

/-- A byte with bit 7 set is a continuation byte. -/
theorem isTerminator_continuation (b : Byte) : isTerminator (0x80#8 ||| b) = false := by
  simp [isTerminator]

/-- A byte below 128 is a terminator byte. -/
theorem isTerminator_ofNat_of_lt_128 {x : Nat} (h : x < 128) : isTerminator (BitVec.ofNat 8 x) = true := by
  have h7 : (BitVec.ofNat 8 x).getLsbD 7 = false := by
    rw [BitVec.getLsbD_ofNat, Nat.testBit_lt_two_pow h, Bool.and_false]
  rw [isTerminator, h7, Bool.not_false]

/-- Within an encoding exactly the last lane is a terminator byte (00_scope.md R12). -/
theorem isTerminator_closedLane {u : U64} {k : Nat} (h : k < minimalLength u) :
    isTerminator (closedLane u k) = decide (k + 1 = minimalLength u) := by
  unfold closedLane
  rcases Nat.lt_or_eq_of_le (Nat.succ_le_of_lt h) with hk | hk
  · rw [if_pos hk, isTerminator_continuation, decide_eq_false (Nat.ne_of_lt hk)]
  · rw [if_neg (by omega), if_pos hk, isTerminator_ofNat_of_lt_128 (Nat.mod_lt _ (by norm_num)),
      decide_eq_true hk]

/-- A tenth byte is 1: the 64th bit of the value, with no other bit (40_varint_encoder.md R66). -/
theorem closedLane_nine {u : U64} (h : minimalLength u = 10) : closedLane u 9 = 0x01#8 := by
  have hlow : 2 ^ 63 ≤ u.toNat := by
    have hn := minimalLength_le_iff u (n := 9) (by omega)
    norm_num at hn ⊢
    omega
  have hone : u.toNat / 2 ^ (7 * 9) % 128 = 1 := by omega
  rw [closedLane, h, hone]
  rfl

/-- Every encoding is well-formed (00_scope.md R12). -/
theorem wellFormedEncoding_encU (u : U64) : WellFormedEncoding (encU u) := by
  refine ⟨?_, ?_, fun k hk => ?_, fun hlen => ?_⟩
  · exact length_encU u ▸ one_le_minimalLength u
  · exact length_encU u ▸ minimalLength_le_ten u
  · rw [length_encU] at hk ⊢
    rw [getD_encU, isTerminator_closedLane hk]
  · rw [getD_encU, closedLane_nine (length_encU u ▸ hlen)]
    rfl

/-! #### What the decoder's loop accumulates -/

/-- The payloads of `n` lanes are a number of `7n` bits. -/
theorem chunkSum_lt (b : Lanes) (n : Nat) : chunkSum b n < 2 ^ (7 * n) := by
  induction n with
  | zero => simp [chunkSum]
  | succ n ih =>
    have hp : (payload (lane b n)).toNat + 1 ≤ 2 ^ 7 := (payload (lane b n)).isLt
    calc chunkSum b (n + 1)
      _ < 2 ^ (7 * n) + (payload (lane b n)).toNat * 2 ^ (7 * n) := Nat.add_lt_add_right ih _
      _ = ((payload (lane b n)).toNat + 1) * 2 ^ (7 * n) := by ring
      _ ≤ 2 ^ 7 * 2 ^ (7 * n) := Nat.mul_le_mul_right _ hp
      _ = 2 ^ (7 * (n + 1)) := by ring

/-- The decoder's OR of the next payload is the sum: the payloads occupy bits of their own
(41_varint_decoder.md R70). -/
theorem or_payload_eq_chunkSum_succ (b : Lanes) (n : Nat) :
    BitVec.ofNat 64 (chunkSum b n) ||| ((payload (lane b n)).setWidth 64 <<< (7 * n)) =
      BitVec.ofNat 64 (chunkSum b (n + 1)) := by
  have hsum : chunkSum b (n + 1) = chunkSum b n ||| (payload (lane b n)).toNat <<< (7 * n) := by
    rw [chunkSum, Nat.or_comm, ← Nat.shiftLeft_add_eq_or_of_lt (chunkSum_lt b n), Nat.shiftLeft_eq, Nat.add_comm]
  have hshift : (payload (lane b n)).setWidth 64 <<< (7 * n) =
      BitVec.ofNat 64 ((payload (lane b n)).toNat <<< (7 * n)) := by
    apply BitVec.eq_of_toNat_eq
    simp [Nat.shiftLeft_eq]
  rw [hsum, BitVec.ofNat_or, hshift]

/-- After `n` continuation bytes the loop stands at lane `n` with the sum of their payloads
(41_varint_decoder.md R69). -/
theorem decLoop_after_continuations (policy : TenthPolicy) {b : Lanes} {a n : Nat} (left : Nat) (hn : n ≤ a)
    (hc : NoTerminator b n) :
    decLoop policy b a (left + n) 0 0#64 = decLoop policy b a left n (BitVec.ofNat 64 (chunkSum b n)) := by
  induction n generalizing left with
  | zero => rfl
  | succ n ih =>
    rw [← Nat.add_assoc, Nat.add_right_comm left n 1, ih (left + 1) (by omega) fun j hj => hc j (by omega),
      decLoop_continue (by omega) (hc n (by omega)), or_payload_eq_chunkSum_succ]

/-- A window whose first terminator byte is accepted decodes to the sum of the payloads up to it
(41_varint_decoder.md R70, R71). -/
theorem decU_of_firstTerminator {policy : TenthPolicy} {b : Lanes} {avail t : Nat}
    (ht : FirstTerminator b (min avail 10) t) (hr : ¬ TenthRejected policy b t) :
    decU policy b avail =
      { status := .ok, value := BitVec.ofNat 64 (chunkSum b (t + 1)), len := t + 1 } := by
  obtain ⟨hlt, hterm, hcont⟩ := ht
  have hten : maxLen = (9 - t) + 1 + t := by unfold maxLen; omega
  rw [decU, show availBytes avail = min avail 10 from rfl, hten, decLoop_after_continuations policy _ hlt.le hcont,
    decLoop_terminator (Nat.ne_of_lt hlt) hterm hr, or_payload_eq_chunkSum_succ]

/-- A window that starts with a well-formed sequence has its first terminator byte at the last byte of it
(00_scope.md R12). -/
theorem firstTerminator_of_wellFormedEncoding {bs : List Byte} {w : Lanes} {avail : Nat}
    (hwf : WellFormedEncoding bs) (hw : ∀ k < bs.length, lane w k = bs.getD k 0x00#8) (ha : bs.length ≤ avail) :
    FirstTerminator w (min avail 10) (bs.length - 1) := by
  obtain ⟨hpos, hten, hterm, -⟩ := hwf
  refine ⟨by omega, ?_, fun j hj => ?_⟩
  · rw [hw _ (by omega), hterm _ (by omega), decide_eq_true (by omega)]
  · rw [hw j (by omega), hterm j (by omega), decide_eq_false (by omega)]

/-- The tenth byte of a well-formed sequence carries no bit above bit 63, so no setting of `P_TENTH` rejects
it (41_varint_decoder.md R74). -/
theorem not_tenthRejected_of_wellFormedEncoding {bs : List Byte} {w : Lanes} (policy : TenthPolicy)
    (hwf : WellFormedEncoding bs) (hw : ∀ k < bs.length, lane w k = bs.getD k 0x00#8) :
    ¬ TenthRejected policy w (bs.length - 1) := by
  rintro ⟨h9, hhigh, -⟩
  obtain ⟨-, -, -, hlow⟩ := hwf
  rw [hw 9 (by omega), hlow (by omega)] at hhigh
  exact Bool.false_ne_true hhigh

/-- Settles O26: the closed form of the encoder gives the first half; the decoder reaches the last byte of a
well-formed sequence with the sum of the payloads before it, and accepts that byte. -/
theorem wellFormedSequencesAreAccepted : Obligations.WellFormedSequencesAreAccepted := by
  refine ⟨wellFormedEncoding_encU, fun policy bs w avail hwf hw ha => ?_⟩
  have ⟨hpos, _⟩ := hwf
  rw [decU_of_firstTerminator (firstTerminator_of_wellFormedEncoding hwf hw ha)
    (not_tenthRejected_of_wellFormedEncoding policy hwf hw), Nat.sub_add_cancel hpos]

end Sys2Proof.Machine
end

section
/-! SUPPORT. One rising edge of a block that has been reset, as an equation per transition (10_state.md R23 to
R28), and the statements about single edges and about the output ports. -/

namespace Sys2Proof.Machine

/-! #### What an operation answers -/

/-- The response of an instruction under a setting of `P_TENTH`. -/
def answer (policy : TenthPolicy) : Instr → Resp
  | .encu v => encodeResp v
  | .encs v => encodeResp (zz v)
  | .decu b a => decodeResp (decU policy b a) (decU policy b a).value
  | .decs b a => decodeResp (decU policy b a) (signedValue (decU policy b a))

/-- Every operation writes its answer and the phase DONE, and nothing else (10_state.md R17, R25). -/
theorem exec_eq_answer (i : Instr) (s : State) :
    exec i s = .next { s with resp := answer s.pTenth i, phase := .done } := by
  cases i <;> rfl

/-- `Execute` is the answer of the decoded command (30_encoding.md R53). -/
theorem execute_eq_answer_decode (policy : TenthPolicy) (c : Cmd) : execute policy c = answer policy (decode c) := by
  unfold execute decode
  split_ifs <;> rfl

/-- The decoded command runs as `Execute` says, with the two writes of COMPLETE (10_state.md R25). -/
theorem exec_decode (c : Cmd) (s : State) :
    exec (decode c) s = .next { s with resp := execute s.pTenth c, phase := .done } := by
  rw [exec_eq_answer, execute_eq_answer_decode]

/-- COMPLETE (10_state.md R25) as an update of the state: the response of `CMDQ`, and the phase. -/
def complete (s : State) : State := { s with resp := execute s.pTenth s.cmdq, phase := .done }

@[simp] theorem complete_phase (s : State) : (complete s).phase = .done := rfl
@[simp] theorem complete_cmdq (s : State) : (complete s).cmdq = s.cmdq := rfl
@[simp] theorem complete_resp (s : State) : (complete s).resp = execute s.pTenth s.cmdq := rfl
@[simp] theorem complete_pTenth (s : State) : (complete s).pTenth = s.pTenth := rfl
@[simp] theorem complete_wasReset (s : State) : (complete s).wasReset = s.wasReset := rfl
@[simp] theorem complete_edges (s : State) : (complete s).edges = s.edges := rfl

/-- Settles O11: `answer` is the function, arm by arm of `exec`. -/
theorem operationsWriteOnlyRespAndPhase : Obligations.OperationsWriteOnlyRespAndPhase :=
  ⟨answer, exec_eq_answer⟩

/-! #### One edge, forward -/

/-- A block is in one of the three phases (10_state.md R16). -/
theorem phase_cases (s : State) : s.phase = .idle ∨ s.phase = .busy ∨ s.phase = .done := by
  cases s.phase <;> simp

/-- RESET, from every state (10_state.md R28, 60_exceptions.md R92). -/
theorem step_of_rst {s : State} (hr : (nextEdge s).rst = true) : step s = .next (applyReset (dropEdge s)) := by
  rw [step, clockEdge, edgeWith, if_pos hr]

/-- An edge before the first reset (10_state.md R30). -/
theorem step_of_not_wasReset {s : State} (hr : (nextEdge s).rst = false) (hw : s.wasReset = false) :
    step s = undefinedEdge (nextEdge s) (dropEdge s) := by
  simp [step, clockEdge, edgeWith, hr, hw]

section
variable {s : State}

theorem step_idle (hw : s.wasReset = true) (hr : (nextEdge s).rst = false) (hp : s.phase = .idle) :
    step s = idleEdge (nextEdge s) (dropEdge s) := by
  simp [step, clockEdge, edgeWith, hw, hr, hp]

theorem step_busy (hw : s.wasReset = true) (hr : (nextEdge s).rst = false) (hp : s.phase = .busy) :
    step s = busyEdge (dropEdge s) := by
  simp [step, clockEdge, edgeWith, hw, hr, hp]

theorem step_done (hw : s.wasReset = true) (hr : (nextEdge s).rst = false) (hp : s.phase = .done) :
    step s = doneEdge (nextEdge s) (dropEdge s) := by
  simp [step, clockEdge, edgeWith, hw, hr, hp]

/-- ACCEPT (10_state.md R23). -/
theorem step_accept {c : Cmd} (hw : s.wasReset = true) (hr : (nextEdge s).rst = false) (hp : s.phase = .idle)
    (hv : (nextEdge s).cmdValid = true) (hc : (nextEdge s).cmd = some c) :
    step s = .next (accept c (dropEdge s)) := by
  simp [step_idle hw hr hp, idleEdge, hv, hc]

/-- A command that is not stable at its ACCEPT edge (93_implementation_defined.md item 16). -/
theorem step_accept_unstable (hw : s.wasReset = true) (hr : (nextEdge s).rst = false) (hp : s.phase = .idle)
    (hv : (nextEdge s).cmdValid = true) (hc : (nextEdge s).cmd = none) :
    step s = .refused .unstableCommand := by
  simp [step_idle hw hr hp, idleEdge, hv, hc]

/-- IDLE with no command presented (10_state.md R23). -/
theorem step_idle_no_command (hw : s.wasReset = true) (hr : (nextEdge s).rst = false) (hp : s.phase = .idle)
    (hv : (nextEdge s).cmdValid = false) : step s = .next (dropEdge s) := by
  simp [step_idle hw hr hp, idleEdge, hv]

/-- BUSY before the `P_LAT`-th edge (10_state.md R25). -/
theorem step_countDown (hw : s.wasReset = true) (hr : (nextEdge s).rst = false) (hp : s.phase = .busy)
    (hn : s.wait ≠ 0) : step s = .next (countDown (dropEdge s)) := by
  simp [step_busy hw hr hp, busyEdge, hn]

/-- The `P_LAT`-th edge runs the decoded command (10_state.md R25). -/
theorem step_exec (hw : s.wasReset = true) (hr : (nextEdge s).rst = false) (hp : s.phase = .busy)
    (hz : s.wait = 0) : step s = exec (decode s.cmdq) (dropEdge s) := by
  simp [step_busy hw hr hp, busyEdge, hz]

/-- COMPLETE (10_state.md R25). -/
theorem step_complete (hw : s.wasReset = true) (hr : (nextEdge s).rst = false) (hp : s.phase = .busy)
    (hz : s.wait = 0) : step s = .next (complete (dropEdge s)) := by
  rw [step_exec hw hr hp hz, exec_decode]
  rfl

/-- RELEASE (10_state.md R26). -/
theorem step_release (hw : s.wasReset = true) (hr : (nextEdge s).rst = false) (hp : s.phase = .done)
    (hy : (nextEdge s).respReady = true) : step s = .next (release (dropEdge s)) := by
  simp [step_done hw hr hp, doneEdge, hy]

/-- DONE while the host does not take the response (10_state.md R24). -/
theorem step_done_not_ready (hw : s.wasReset = true) (hr : (nextEdge s).rst = false) (hp : s.phase = .done)
    (hy : (nextEdge s).respReady = false) : step s = .next (dropEdge s) := by
  simp [step_done hw hr hp, doneEdge, hy]

end

/-! #### One edge, the statements -/

/-- Settles O33. -/
theorem outputPortsFollowThePhase : Obligations.OutputPortsFollowThePhase := by
  intro s
  refine ⟨by simp [cmdReady], by simp [respValid], fun h => ?_, fun h => ?_⟩
  · rw [respPorts, if_pos h]
  · rw [respPorts, if_neg (by simp [h])]

/-- Settles O34: in BUSY and in DONE the step reads `rst` and `resp_ready` of the edge and nothing else. -/
theorem commandsAreSampledOnlyAtAccept : Obligations.CommandsAreSampledOnlyAtAccept := by
  intro s p rest hw he hr
  have hnext : nextEdge s = p := by rw [nextEdge, he]; rfl
  have hdrop : dropEdge s = { s with edges := rest } := by rw [dropEdge, he]; rfl
  refine ⟨fun c hp hv hc => ?_, fun hp hv => ?_, fun hp v c => ?_⟩
  · refine ⟨_, step_accept hw (hnext ▸ hr) hp (hnext ▸ hv) (hnext ▸ hc), ?_⟩
    simp [hw, he]
  · rw [step_idle_no_command hw (hnext ▸ hr) hp (hnext ▸ hv), hdrop]
  · rcases phase_cases s with hph | hph | hph
    · exact absurd hph hp
    · rw [step_busy hw (hnext ▸ hr) hph, hdrop]
      exact (step_busy (s := { s with edges := { p with cmdValid := v, cmd := c } :: rest }) hw hr hph).symm
    · rw [step_done hw (hnext ▸ hr) hph, hdrop, hnext]
      exact (step_done (s := { s with edges := { p with cmdValid := v, cmd := c } :: rest }) hw hr hph).symm

/-- Settles O36. -/
theorem stepRunsTheDecodedCommand : Obligations.StepRunsTheDecodedCommand :=
  fun _ hw hp hr => ⟨step_exec hw hr hp, step_countDown hw hr hp⟩

/-- The table decoder reads the command word of the number's low `nbits` bits. -/
theorem decode_of_decodeTableWord {nbits w : Nat} {i : Instr} (h : decodeTableWord nbits w = some i) :
    decode (Cmd.ofWord (BitVec.ofNat 150 (w % 2 ^ nbits))) = i := by
  unfold decodeTableWord decodeWord at h
  by_cases hlt : w % 2 ^ nbits < 2 ^ 150
  · rw [if_pos hlt] at h
    exact Option.some.inj h
  · rw [if_neg hlt] at h
    cases h

/-- Settles O37: the loaded block is in BUSY at its completing edge, which is a quiet one. -/
theorem loadedTableWordRunsNext : Obligations.LoadedTableWordRunsNext := by
  intro s nbits w i hi
  rw [State.withFetchWord, step_exec rfl rfl rfl rfl, loadCommand_cmdq, decode_of_decodeTableWord hi]
  rfl

/-- Settles O39. -/
theorem releaseWaitsForTheHost : Obligations.ReleaseWaitsForTheHost :=
  fun _ hw hp hr => ⟨step_release hw hr hp, step_done_not_ready hw hr hp⟩

/-- Settles O40. -/
theorem resetTakesPriorityOverEverything : Obligations.ResetTakesPriorityOverEverything :=
  fun _ hr => step_of_rst hr

/-- Settles O42. -/
theorem stateAfterReset : Obligations.StateAfterReset := ⟨rfl, rfl, rfl, rfl, rfl⟩

/-- Settles O43. -/
theorem noCommandBeforeTheFirstReset : Obligations.NoCommandBeforeTheFirstReset := by
  intro s hw hr
  refine ⟨fun hv => ?_, fun hv => ⟨drawUndefined (dropEdge s), ?_, hw, rfl, rfl⟩⟩ <;>
    simp [step_of_not_wasReset hr hw, undefinedEdge, hv]

end Sys2Proof.Machine
end

section
/-! SUPPORT. The refinement of the transaction-level model of 10_state.md R31: one edge is one event that the
model allows, and the statements that follow from it. -/

namespace Sys2Proof.Machine

/-! #### The transaction-level transitions -/

section
variable {policy : TenthPolicy} {t u : Txn}

@[simp] theorem txnStep_accept_eq_some {c : Cmd} :
    txnStep policy t (.accept c) = some u ↔ t.phase = .idle ∧ u = { t with phase := .busy, cmdq := c } := by
  simp [txnStep, eq_comm]

@[simp] theorem txnStep_complete_eq_some {r : Resp} :
    txnStep policy t (.complete r) = some u ↔
      t.phase = .busy ∧ r = execute policy t.cmdq ∧ u = { t with phase := .done, resp := r } := by
  simp [txnStep, eq_comm, and_assoc]

@[simp] theorem txnStep_release_eq_some :
    txnStep policy t .release = some u ↔ t.phase = .done ∧ u = { t with phase := .idle } := by
  simp [txnStep, eq_comm]

@[simp] theorem txnStep_reset_eq_some : txnStep policy t .reset = some u ↔ u = { t with phase := .idle } := by
  simp [txnStep, eq_comm]

@[simp] theorem txnStep_quiet_eq_some : txnStep policy t .quiet = some u ↔ u = t := by
  simp [txnStep, eq_comm]

end

/-! #### One edge is one event -/

/-- What every step leaves and uses up, whatever it does (70_reset_and_hazards.md R106, log 3). -/
theorem step_frame {s t : State} (h : step s = .next t) :
    t.pTenth = s.pTenth ∧ t.edges = s.edges.tail ∧ (s.wasReset = true → t.wasReset = true) := by
  rcases step_next_cases h with ⟨-, rfl⟩ | ⟨-, -, ht⟩ | ⟨-, -, -, rfl⟩
  · simp
  · rcases ht with ⟨-, -, c, -, rfl⟩ | ⟨-, -, rfl⟩ | ⟨-, -, ht⟩ | ⟨-, -, rfl⟩ | ⟨-, -, rfl⟩ | ⟨-, -, rfl⟩
    case inr.inr.inl =>
      rw [exec_decode] at ht
      cases ht
      simp
    all_goals simp
  · simp

/-- The event of an edge is a transition of 10_state.md R31, from the transaction-level state before the edge
to the one after it. -/
theorem txnStep_eventOf {s t : State} (hw : s.wasReset = true) (h : step s = .next t) :
    txnStep s.pTenth (txnOf s) (eventOf s) = some (txnOf t) := by
  rcases step_next_cases h with ⟨hr, rfl⟩ | ⟨hr, -, ht⟩ | ⟨-, hn, -⟩
  · simp [eventOf, hr, txnOf]
  · rcases ht with ⟨hp, hv, c, hc, rfl⟩ | ⟨hp, hv, rfl⟩ | ⟨hp, hz, ht⟩ | ⟨hp, hz, rfl⟩ | ⟨hp, hy, rfl⟩ | ⟨hp, hy, rfl⟩
    · simp [eventOf, hr, hp, hv, hc, txnOf]
    · simp [eventOf, hr, hp, hv, txnOf]
    · rw [exec_decode] at ht
      cases ht
      simp [eventOf, hr, hp, hz, txnOf]
    · simp [eventOf, hr, hp, hz, txnOf]
    · simp [eventOf, hr, hp, hy, txnOf]
    · simp [eventOf, hr, hp, hy, txnOf]
  · exact absurd hw (by simp [hn])

/-- Settles O45: by induction on the number of edges, an edge being an event. -/
theorem runsRefineTheTransactionModel : Obligations.RunsRefineTheTransactionModel := by
  intro n
  induction n with
  | zero =>
    intro s t _ h
    cases h
    rfl
  | succ n ih =>
    intro s t hw h
    obtain ⟨u, hstep, hrun⟩ := runEdges_succ_next h
    obtain ⟨hpol, -, hwu⟩ := step_frame hstep
    rw [history_of_step hstep, List.foldlM_cons, txnStep_eventOf hw hstep, ← hpol]
    exact ih u t (hwu hw) hrun

/-- Which transition writes which element of the transaction-level state (10_state.md R16). -/
theorem txnStep_writes {policy : TenthPolicy} {t u : Txn} {e : Event} (h : txnStep policy t e = some u) :
    (u.cmdq = t.cmdq ∨ e = .accept u.cmdq) ∧ (u.resp = t.resp ∨ e = .complete u.resp) ∧
      (u.phase = t.phase ∨ e ≠ .quiet) := by
  cases e with
  | accept c =>
    obtain ⟨-, rfl⟩ := txnStep_accept_eq_some.1 h
    exact ⟨.inr rfl, .inl rfl, .inr nofun⟩
  | complete r =>
    obtain ⟨-, -, rfl⟩ := txnStep_complete_eq_some.1 h
    exact ⟨.inl rfl, .inr rfl, .inr nofun⟩
  | release =>
    obtain ⟨-, rfl⟩ := txnStep_release_eq_some.1 h
    exact ⟨.inl rfl, .inl rfl, .inr nofun⟩
  | reset =>
    obtain rfl := txnStep_reset_eq_some.1 h
    exact ⟨.inl rfl, .inl rfl, .inr nofun⟩
  | quiet =>
    obtain rfl := txnStep_quiet_eq_some.1 h
    exact ⟨.inl rfl, .inl rfl, .inl rfl⟩

/-- Settles O44: by the event of the edge. -/
theorem onlyTheNamedTransitionsWriteEachElement : Obligations.OnlyTheNamedTransitionsWriteEachElement := by
  intro s t hw h
  obtain ⟨hpol, hedges, hwt⟩ := step_frame h
  obtain ⟨hcmdq, hresp, hphase⟩ := txnStep_writes (txnStep_eventOf hw h)
  exact ⟨hcmdq, hresp, hphase, hpol, hwt hw, hedges⟩

/-! #### The shown response (10_state.md R22, R25) -/

/-- A transition of the transaction-level model keeps that DONE shows the response of `CMDQ`. -/
theorem txnStep_keeps_answer {policy : TenthPolicy} {t u : Txn} {e : Event}
    (ht : t.phase = .done → t.resp = execute policy t.cmdq) (h : txnStep policy t e = some u) :
    u.phase = .done → u.resp = execute policy u.cmdq := by
  cases e with
  | accept c =>
    obtain ⟨-, rfl⟩ := txnStep_accept_eq_some.1 h
    exact nofun
  | complete r =>
    obtain ⟨-, rfl, rfl⟩ := txnStep_complete_eq_some.1 h
    exact fun _ => rfl
  | release =>
    obtain ⟨-, rfl⟩ := txnStep_release_eq_some.1 h
    exact nofun
  | reset =>
    obtain rfl := txnStep_reset_eq_some.1 h
    exact nofun
  | quiet =>
    obtain rfl := txnStep_quiet_eq_some.1 h
    exact ht

/-- Settles O49: a reset block moves as the transaction-level model does, and an edge of another block leaves
it in IDLE or still not reset. -/
theorem stepKeepsShowingItsAnswer : Obligations.StepKeepsShowingItsAnswer := by
  intro s t hs h hwt
  cases hw : s.wasReset with
  | true =>
    obtain ⟨hpol, -, -⟩ := step_frame h
    rw [hpol]
    exact txnStep_keeps_answer (hs hw) (txnStep_eventOf hw h)
  | false =>
    rcases step_next_cases h with ⟨-, rfl⟩ | ⟨-, hw', -⟩ | ⟨-, -, -, rfl⟩
    · simp
    · exact absurd hw' (by simp [hw])
    · exact absurd hwt (by simp [hw])

/-- Settles O50. -/
theorem resetShowsItsAnswer : Obligations.ResetShowsItsAnswer := fun _ h => nomatch h

/-! #### One response per command (10_state.md R27, R28) -/

theorem accepted_cons (e : Event) (es : List Event) : accepted (e :: es) = accepted [e] ++ accepted es := by
  cases e <;> rfl

theorem produced_cons (e : Event) (es : List Event) : produced (e :: es) = produced [e] ++ produced es := by
  cases e <;> rfl

/-- The response the block still owes: that of the command it holds while BUSY. -/
def owed (policy : TenthPolicy) (t : Txn) : List Resp :=
  if t.phase = .busy then [execute policy t.cmdq] else []

/-- A transition other than RESET answers what was owed or takes a command whose response is owed. -/
theorem produced_append_owed {policy : TenthPolicy} {t u : Txn} {e : Event} (h : txnStep policy t e = some u)
    (he : e ≠ .reset) :
    produced [e] ++ owed policy u = owed policy t ++ (accepted [e]).map (execute policy) := by
  cases e with
  | accept c =>
    obtain ⟨hp, rfl⟩ := txnStep_accept_eq_some.1 h
    simp [owed, hp, produced, accepted]
  | complete r =>
    obtain ⟨hp, rfl, rfl⟩ := txnStep_complete_eq_some.1 h
    simp [owed, hp, produced, accepted]
  | release =>
    obtain ⟨hp, rfl⟩ := txnStep_release_eq_some.1 h
    simp [owed, hp, produced, accepted]
  | reset => exact absurd rfl he
  | quiet =>
    obtain rfl := txnStep_quiet_eq_some.1 h
    simp [produced, accepted]

/-- RESET gives up what was owed; every other transition keeps the account. -/
theorem produced_append_owed_sublist {policy : TenthPolicy} {t u : Txn} {e : Event}
    (h : txnStep policy t e = some u) :
    (produced [e] ++ owed policy u).Sublist (owed policy t ++ (accepted [e]).map (execute policy)) := by
  by_cases he : e = .reset
  · subst he
    obtain rfl := txnStep_reset_eq_some.1 h
    exact List.nil_sublist _
  · exact produced_append_owed h he ▸ List.Sublist.refl _

/-- The account of a run without RESET. -/
theorem foldlM_produced_append_owed {policy : TenthPolicy} {es : List Event} {t u : Txn}
    (h : es.foldlM (txnStep policy) t = some u) (hes : ∀ e ∈ es, e ≠ .reset) :
    produced es ++ owed policy u = owed policy t ++ (accepted es).map (execute policy) := by
  induction es generalizing t with
  | nil =>
    cases h
    simp [produced, accepted]
  | cons e es ih =>
    rw [List.foldlM_cons, Option.bind_eq_bind, Option.bind_eq_some_iff] at h
    obtain ⟨v, hstep, hrest⟩ := h
    rw [produced_cons, accepted_cons, List.append_assoc, ih hrest fun e he => hes e (.tail _ he), List.map_append,
      ← List.append_assoc, ← List.append_assoc, produced_append_owed hstep (hes e (.head _))]

/-- The account of any run. -/
theorem foldlM_produced_append_owed_sublist {policy : TenthPolicy} {es : List Event} {t u : Txn}
    (h : es.foldlM (txnStep policy) t = some u) :
    (produced es ++ owed policy u).Sublist (owed policy t ++ (accepted es).map (execute policy)) := by
  induction es generalizing t with
  | nil =>
    cases h
    simp [produced, accepted]
  | cons e es ih =>
    rw [List.foldlM_cons, Option.bind_eq_bind, Option.bind_eq_some_iff] at h
    obtain ⟨v, hstep, hrest⟩ := h
    have hlater := (ih hrest).append_left (produced [e])
    have hfirst := (produced_append_owed_sublist hstep).append_right ((accepted es).map (execute policy))
    rw [← List.append_assoc, ← List.append_assoc] at hlater
    rw [produced_cons, accepted_cons, List.map_append, ← List.append_assoc]
    exact hlater.trans hfirst

/-- Settles O48: the run is one of the transaction-level model, which owes nothing in IDLE. -/
theorem oneResponsePerCommandInOrder : Obligations.OneResponsePerCommandInOrder := by
  intro n s t hw hp h
  have hrun := runsRefineTheTransactionModel n s t hw h
  have howed : owed s.pTenth (txnOf s) = [] := by simp [owed, hp]
  refine ⟨fun hes => ?_, ?_⟩
  · have hsum := foldlM_produced_append_owed hrun hes
    rwa [howed, List.nil_append] at hsum
  · have hsub := foldlM_produced_append_owed_sublist hrun
    rw [howed, List.nil_append] at hsub
    exact (List.sublist_append_left _ _).trans hsub

end Sys2Proof.Machine
end

section
/-! SUPPORT. Runs of a block that has been reset: how long BUSY lasts, when a run is over, and what the host
can tell apart (10_state.md R25, R29, R31). -/

namespace Sys2Proof.Machine

/-! #### BUSY runs to COMPLETE (10_state.md R25) -/

/-- `n` edges in BUSY before the completing one: counted down, their inputs used up. -/
def countDownBy (n : Nat) (s : State) : State := { s with wait := s.wait - n, edges := s.edges.drop n }

@[simp] theorem countDownBy_phase (n : Nat) (s : State) : (countDownBy n s).phase = s.phase := rfl
@[simp] theorem countDownBy_edges (n : Nat) (s : State) : (countDownBy n s).edges = s.edges.drop n := rfl

/-- Counting down by one more is one edge and the rest. -/
theorem countDownBy_succ (n : Nat) (s : State) : countDownBy (n + 1) s = countDownBy n (countDown (dropEdge s)) := by
  simp [countDownBy, countDown, dropEdge, Nat.sub_sub, Nat.add_comm]

/-- Entry `k` after `n` edges is entry `n + k` before them. -/
theorem getD_drop (l : List PortIn) (n k : Nat) : (l.drop n).getD k PortIn.quiet = l.getD (n + k) PortIn.quiet := by
  simp [List.getD_eq_getElem?_getD]

/-- Without reset, the edges in BUSY before the completing one only count down. -/
theorem runEdges_countDown {n : Nat} {s : State} (hw : s.wasReset = true) (hp : s.phase = .busy)
    (hn : n ≤ s.wait) (hr : ∀ k < n, (s.edges.getD k PortIn.quiet).rst = false) :
    runEdges n s = .next (countDownBy n s) := by
  induction n generalizing s with
  | zero => rfl
  | succ n ih =>
    have hstep := step_countDown hw (nextEdge_eq_getD s ▸ hr 0 (by omega)) hp (by omega)
    have hrest : ∀ k < n, ((countDown (dropEdge s)).edges.getD k PortIn.quiet).rst = false := fun k hk => by
      simpa only [countDown_edges, dropEdge_edges, getD_tail] using hr (k + 1) (by omega)
    rw [runEdges_of_step hstep, countDownBy_succ]
    exact ih hw hp (Nat.le_sub_one_of_lt hn) hrest

/-- Without reset, COMPLETE is at the edge after `wait` others. -/
theorem runEdges_complete {s : State} (hw : s.wasReset = true) (hp : s.phase = .busy)
    (hr : ∀ k ≤ s.wait, (s.edges.getD k PortIn.quiet).rst = false) :
    runEdges (s.wait + 1) s = .next (complete (dropEdge (countDownBy s.wait s))) := by
  have hlast : (nextEdge (countDownBy s.wait s)).rst = false := by
    rw [nextEdge_eq_getD, countDownBy_edges, getD_drop]
    exact hr s.wait le_rfl
  rw [runEdges_add (runEdges_countDown hw hp le_rfl fun k hk => hr k hk.le)]
  exact runEdges_of_step (step_complete hw hlast hp (Nat.sub_self _))

/-- Settles O38: the edge of ACCEPT, then the countdown it fixed. -/
theorem completeFallsOnThePLatEdge : Obligations.CompleteFallsOnThePLatEdge := by
  intro s c hw hp hv hc hr
  have hstep := step_accept hw (nextEdge_eq_getD s ▸ hr 0 (by omega)) hp hv hc
  have hrest : ∀ k ≤ s.pLat.headD 0, ((accept c (dropEdge s)).edges.getD k PortIn.quiet).rst = false :=
    fun k hk => by simpa only [accept_edges, dropEdge_edges, getD_tail] using hr (k + 1) (by omega)
  refine ⟨fun k hk => ?_, ?_⟩
  · have hcount := runEdges_countDown (s := accept c (dropEdge s)) hw rfl hk fun j hj => hrest j (by omega)
    exact ⟨_, (runEdges_of_step hstep).trans hcount, rfl, rfl, rfl⟩
  · have hdone := runEdges_complete (s := accept c (dropEdge s)) hw rfl hrest
    exact ⟨_, (runEdges_of_step hstep).trans hdone, rfl, rfl, rfl⟩

/-! #### When a run is over (10_state.md R31) -/

/-- Only IDLE is final. -/
theorem isFinal_eq_false {s : State} (h : s.phase ≠ .idle) : isFinal s = false := by
  simp [isFinal, h]

/-- Settles O47: BUSY until COMPLETE, DONE at the edge after it, where the host takes the response. -/
theorem busyRunsEndOnceTheResponseIsTaken : Obligations.BusyRunsEndOnceTheResponseIsTaken := by
  intro s hw hp hcmds hr hy
  have hdone := runEdges_complete hw hp fun k hk => hr k (by omega)
  refine ⟨fun k hk => ?_, ?_⟩
  · rcases Nat.le_succ_iff.1 hk with hk | rfl
    · exact ⟨_, runEdges_countDown hw hp hk fun j hj => hr j (by omega), isFinal_eq_false (by simp [hp])⟩
    · exact ⟨_, hdone, isFinal_eq_false (by simp)⟩
  · have hnext : nextEdge (complete (dropEdge (countDownBy s.wait s))) =
        s.edges.getD (s.wait + 1) PortIn.quiet := by
      rw [nextEdge_eq_getD, complete_edges, dropEdge_edges, getD_tail, countDownBy_edges, getD_drop]
    have hrelease := step_release (s := complete (dropEdge (countDownBy s.wait s))) hw (hnext ▸ hr _ le_rfl) rfl
      (hnext ▸ hy)
    refine ⟨_, (runEdges_add (m := 1) hdone).trans (runEdges_of_step hrelease), ?_, rfl⟩
    simp only [hostHasCommands, List.any_eq_false, Bool.not_eq_true] at hcmds
    exact (isFinal_iff _).2 ⟨rfl, fun p hmem =>
      hcmds p (List.mem_of_mem_drop (List.mem_of_mem_tail (List.mem_of_mem_tail hmem)))⟩

/-- An edge in a final state is RESET or quiet, and the state after it is final with the same registers. -/
theorem step_of_isFinal {s : State} (hw : s.wasReset = true) (hf : isFinal s = true) :
    ∃ t, step s = .next t ∧ t.wasReset = true ∧ isFinal t = true ∧ t.cmdq = s.cmdq ∧ t.resp = s.resp ∧
      (eventOf s = .reset ∨ eventOf s = .quiet) := by
  obtain ⟨hp, hcmds⟩ := (isFinal_iff s).1 hf
  have htail : ∀ p ∈ s.edges.tail, p.cmdValid = false := fun p hmem => hcmds p (List.mem_of_mem_tail hmem)
  cases hr : (nextEdge s).rst with
  | true =>
    exact ⟨_, step_of_rst hr, rfl, (isFinal_iff _).2 ⟨rfl, htail⟩, rfl, rfl, .inl (by simp [eventOf, hr])⟩
  | false =>
    have hv := nextEdge_cmdValid_of_forall hcmds
    exact ⟨_, step_idle_no_command hw hr hp hv, hw, (isFinal_iff _).2 ⟨hp, htail⟩, rfl, rfl,
      .inr (by simp [eventOf, hr, hp, hv])⟩

/-- Settles O46: by induction on the number of edges. -/
theorem finalStatesEndTheRun : Obligations.FinalStatesEndTheRun := by
  intro n
  induction n with
  | zero => exact fun s _ hf => ⟨s, rfl, hf, rfl, rfl, rfl, rfl⟩
  | succ n ih =>
    intro s hw hf
    obtain ⟨u, hstep, hwu, hfu, hcmdq, hresp, hev⟩ := step_of_isFinal hw hf
    obtain ⟨t, hrun, hft, hct, hrt, hacc, hprod⟩ := ih u hwu hfu
    refine ⟨t, (runEdges_of_step hstep).trans hrun, hft, hct.trans hcmdq, hrt.trans hresp, ?_⟩
    rw [history_of_step hstep, accepted_cons, produced_cons, hacc, hprod]
    rcases hev with he | he <;> rw [he] <;> exact ⟨rfl, rfl⟩

/-! #### What the host can tell apart (10_state.md R29) -/

/-- Two blocks that differ at most in registers the host will not see: `CMDQ` outside BUSY, `RESP` outside
DONE. -/
def DifferUnseen (s t : State) : Prop :=
  ∃ c r, t = { s with cmdq := c, resp := r } ∧ (s.phase = .busy → c = s.cmdq) ∧ (s.phase = .done → r = s.resp)

theorem differUnseen_refl (s : State) : DifferUnseen s s := ⟨s.cmdq, s.resp, rfl, fun _ => rfl, fun _ => rfl⟩

/-- The output ports do not tell such blocks apart. -/
theorem sameToTheHost_of_differUnseen {s t : State} (h : DifferUnseen s t) :
    SameToTheHost (.next s) (.next t) := by
  obtain ⟨c, r, rfl, -, hdone⟩ := h
  refine ⟨rfl, rfl, ?_⟩
  cases hv : respValid s with
  | true =>
    have hp : s.phase = .done := by simpa [respValid] using hv
    rw [hdone hp]
    rfl
  | false =>
    have hv' : respValid { s with cmdq := c, resp := r } = false := hv
    rw [respPorts, respPorts, hv, hv']
    rfl

/-- One edge keeps such blocks so, or refuses both alike: ACCEPT overwrites `CMDQ`, COMPLETE overwrites
`RESP`, and RELEASE and RESET end in IDLE. -/
theorem step_of_differUnseen {s t : State} (hw : s.wasReset = true) (h : DifferUnseen s t) :
    (∃ u v, step s = .next u ∧ step t = .next v ∧ DifferUnseen u v) ∨
      ∃ q, step s = .refused q ∧ step t = .refused q := by
  obtain ⟨c, r, rfl, hbusy, hdone⟩ := h
  cases hr : (nextEdge s).rst with
  | true => exact .inl ⟨_, _, step_of_rst hr, step_of_rst hr, c, r, rfl, nofun, nofun⟩
  | false =>
    rcases phase_cases s with hp | hp | hp
    · cases hv : (nextEdge s).cmdValid with
      | true =>
        cases hc : (nextEdge s).cmd with
        | some d =>
          exact .inl ⟨_, _, step_accept hw hr hp hv hc, step_accept hw hr hp hv hc, d, r, rfl, fun _ => rfl, nofun⟩
        | none => exact .inr ⟨_, step_accept_unstable hw hr hp hv hc, step_accept_unstable hw hr hp hv hc⟩
      | false =>
        exact .inl ⟨_, _, step_idle_no_command hw hr hp hv, step_idle_no_command hw hr hp hv, c, r, rfl, hbusy, hdone⟩
    · obtain rfl := hbusy hp
      by_cases hz : s.wait = 0
      · exact .inl ⟨_, _, step_complete hw hr hp hz, step_complete hw hr hp hz, differUnseen_refl _⟩
      · exact .inl ⟨_, _, step_countDown hw hr hp hz, step_countDown hw hr hp hz, s.cmdq, r, rfl, hbusy, hdone⟩
    · cases hy : (nextEdge s).respReady with
      | true => exact .inl ⟨_, _, step_release hw hr hp hy, step_release hw hr hp hy, c, r, rfl, nofun, nofun⟩
      | false =>
        exact .inl ⟨_, _, step_done_not_ready hw hr hp hy, step_done_not_ready hw hr hp hy, c, r, rfl, hbusy, hdone⟩

/-- Such blocks stay alike to the host over a run of any length. -/
theorem runEdges_sameToTheHost (n : Nat) {s t : State} (hw : s.wasReset = true) (h : DifferUnseen s t) :
    SameToTheHost (runEdges n s) (runEdges n t) := by
  induction n generalizing s t with
  | zero => exact sameToTheHost_of_differUnseen h
  | succ n ih =>
    rcases step_of_differUnseen hw h with ⟨u, v, hs, ht, huv⟩ | ⟨q, hs, ht⟩
    · obtain ⟨-, -, hwu⟩ := step_frame hs
      rw [runEdges_of_step hs, runEdges_of_step ht]
      exact ih (hwu hw) huv
    · rw [runEdges, runEdges, hs, ht]
      exact rfl

/-- Settles O51: in IDLE neither register is one the host will see. -/
theorem oldRegistersAreUnobservable : Obligations.OldRegistersAreUnobservable := fun n _ c r hw hp =>
  runEdges_sameToTheHost n hw ⟨c, r, rfl, fun h => absurd (hp.symm.trans h) nofun,
    fun h => absurd (hp.symm.trans h) nofun⟩

end Sys2Proof.Machine
end

section
/-! SUPPORT. Byte sequences in the lanes (20_memory.md R36), the value's bits in an encoding (R33, R34), the
lanes a decode reads (R39), and the host that parses a stream of encodings (R44). -/

namespace Sys2Proof.Machine

/-! #### Byte sequences in the lanes -/

/-- The first byte is in lane 0 (20_memory.md R36). -/
theorem lane_packLanes_cons_zero (b : Byte) (bs : List Byte) : lane (packLanes (b :: bs)) 0 = b := by
  apply BitVec.eq_of_getLsbD_eq
  intro i hi
  simp [lane, packLanes, hi, show i < 80 by omega]

/-- A later byte is one lane above its place in the rest of the sequence. -/
theorem lane_packLanes_cons_succ (b : Byte) (bs : List Byte) {k : Nat} (hk : k + 1 < 10) :
    lane (packLanes (b :: bs)) (k + 1) = lane (packLanes bs) k := by
  apply BitVec.eq_of_getLsbD_eq
  intro i hi
  have hpos : 8 * (k + 1) + i - 8 = 8 * k + i := by omega
  have hb : b.getLsbD (8 * (k + 1) + i) = false := BitVec.getLsbD_of_ge _ _ (by omega)
  simp only [lane, packLanes, BitVec.getLsbD_extractLsb', BitVec.getLsbD_or, BitVec.getLsbD_shiftLeft,
    BitVec.getLsbD_setWidth, hpos, hb, Bool.and_false, Bool.or_false]
  simp [show 8 * (k + 1) + i < 80 by omega, show ¬ 8 * (k + 1) + i < 8 by omega]

/-- Settles O8: by induction on the sequence, a byte in front moving every other one lane up. -/
theorem listedBytesFillTheLanes : Obligations.ListedBytesFillTheLanes := by
  intro bs
  induction bs with
  | nil => simp [packLanes, lane]
  | cons b bs ih =>
    intro k hk
    cases k with
    | zero => rw [lane_packLanes_cons_zero, List.getD_cons_zero]
    | succ k => rw [lane_packLanes_cons_succ b bs hk, ih k (by omega), List.getD_cons_succ]

/-! #### The value's bits in an encoding -/

/-- The continuation bit is no part of the payload (30_encoding.md R46). -/
theorem payload_continuation (b : Byte) : payload (0x80#8 ||| b) = payload b := by
  rw [payload, payload, BitVec.extractLsb'_or]
  exact BitVec.zero_or

/-- The payload of byte `k` is the `k`-th group of 7 bits of the value (20_memory.md R33). -/
theorem payload_closedLane {u : U64} {k : Nat} (h : k < minimalLength u) :
    payload (closedLane u k) = u.extractLsb' (7 * k) 7 := by
  have hgroup : payload (BitVec.ofNat 8 (u.toNat / 2 ^ (7 * k) % 128)) = u.extractLsb' (7 * k) 7 := by
    apply BitVec.eq_of_toNat_eq
    simp only [payload, BitVec.extractLsb'_toNat, BitVec.toNat_ofNat, Nat.shiftRight_eq_div_pow]
    omega
  unfold closedLane
  split_ifs with hcont hlast
  · rw [payload_continuation, hgroup]
  · exact hgroup
  · omega

/-- Bits 6..0 of a byte are its payload (30_encoding.md R46). -/
theorem getLsbD_payload (b : Byte) {j : Nat} (h : j < 7) : (payload b).getLsbD j = b.getLsbD j := by
  simp [payload, h]

/-- Settles O20: the payload of byte `k` is the group of value bits from `7k` on, which has no bit above bit
63. -/
theorem encodingBitMapping : Obligations.EncodingBitMapping := by
  intro u k j hk hj
  rw [length_encU] at hk
  have hbit : ((encU u).getD k 0x00#8).getLsbD j = u.getLsbD (7 * k + j) := by
    rw [getD_encU, ← getLsbD_payload _ hj, payload_closedLane hk, BitVec.getLsbD_extractLsb', decide_eq_true hj,
      Bool.true_and]
  rw [hbit]
  split_ifs with h
  · rfl
  · exact BitVec.getLsbD_of_ge _ _ (by omega)

/-! #### The lanes a decode reads -/

/-- From a lane that only continuation bytes precede, the loop reads the lanes on which the windows agree
(41_varint_decoder.md R69). -/
theorem decLoop_congr {b c : Lanes} {a : Nat} (policy : TenthPolicy)
    (hagree : ∀ k < a, NoTerminator b k → lane b k = lane c k) (left : Nat) {k : Nat} (acc : U64) (hk : k ≤ a)
    (hc : NoTerminator b k) : decLoop policy b a left k acc = decLoop policy c a left k acc := by
  induction left generalizing k acc with
  | zero => rw [decLoop_no_lane_left, decLoop_no_lane_left]
  | succ left ih =>
    by_cases hend : k = a
    · rw [decLoop_at_end hend, decLoop_at_end hend]
    · have hlane := hagree k (by omega) hc
      cases ht : isTerminator (lane b k) with
      | false =>
        have hc' : NoTerminator b (k + 1) := fun j hj =>
          (Nat.lt_succ_iff_lt_or_eq.1 hj).elim (hc j) fun hjk => hjk ▸ ht
        rw [decLoop_continue hend ht, decLoop_continue hend (hlane ▸ ht), ← hlane, ih _ (by omega) hc']
      | true =>
        rw [decLoop, decLoop, if_neg hend, if_neg hend, ← hlane, if_pos ht, if_pos ht]

/-- Windows that agree on the lanes a decode reads decode alike (20_memory.md R39). -/
theorem decU_congr {b c : Lanes} {a : Nat} (policy : TenthPolicy)
    (hagree : ∀ k < min a 10, NoTerminator b k → lane b k = lane c k) : decU policy b a = decU policy c a :=
  decLoop_congr policy hagree maxLen 0#64 (Nat.zero_le _) fun _ hj => absurd hj (Nat.not_lt_zero _)

/-- Settles O22: both operations answer by what `DecU` gives for the window. -/
theorem unreadLanesHaveNoEffect : Obligations.UnreadLanesHaveNoEffect := by
  intro b c a s hagree
  have hdec := decU_congr s.pTenth hagree
  constructor <;> rw [exec_eq_answer, exec_eq_answer, answer, answer, hdec]

/-! #### A decode of an encoding -/

/-- The payloads of the first `n` bytes of an encoding are the value's low `7n` bits. -/
theorem chunkSum_of_encU {u : U64} {w : Lanes} {n : Nat} (hn : n ≤ (encU u).length)
    (hw : ∀ k < (encU u).length, lane w k = (encU u).getD k 0x00#8) : chunkSum w n = u.toNat % 2 ^ (7 * n) := by
  induction n with
  | zero => simp [chunkSum, Nat.mod_one]
  | succ n ih =>
    rw [chunkSum, ih (by omega), hw n (by omega), getD_encU, payload_closedLane (length_encU u ▸ hn),
      BitVec.extractLsb'_toNat, Nat.shiftRight_eq_div_pow, Nat.mul_comm (_ % 2 ^ 7), ← Nat.mod_mul, ← pow_add,
      Nat.mul_succ]

/-- The payloads of a whole encoding are the value. -/
theorem chunkSum_length_encU {u : U64} {w : Lanes}
    (hw : ∀ k < (encU u).length, lane w k = (encU u).getD k 0x00#8) : chunkSum w (encU u).length = u.toNat := by
  rw [chunkSum_of_encU le_rfl hw, length_encU]
  exact Nat.mod_eq_of_lt ((minimalLength_le_iff u (one_le_minimalLength u)).1 le_rfl)

/-- A window that starts with an encoding decodes to its value and length (41_varint_decoder.md R77). -/
theorem decU_of_encU (policy : TenthPolicy) {u : U64} {w : Lanes} {avail : Nat}
    (hw : ∀ k < (encU u).length, lane w k = (encU u).getD k 0x00#8) (ha : (encU u).length ≤ avail) :
    decU policy w avail = { status := .ok, value := u, len := (encU u).length } := by
  rw [wellFormedSequencesAreAccepted.2 policy (encU u) w avail (wellFormedEncoding_encU u) hw ha,
    chunkSum_length_encU hw, BitVec.ofNat_toNat, BitVec.setWidth_eq]

/-! #### The four signatures on the ports (10_state.md R19) -/

theorem length_encU_le_ten (u : U64) : (encU u).length ≤ 10 := length_encU u ▸ minimalLength_le_ten u

theorem encU_ne_nil (u : U64) : encU u ≠ [] :=
  List.length_pos_iff.1 (length_encU u ▸ one_le_minimalLength u)

/-- A count of at most ten bytes fits the 4-bit fields `in_avail` and `len` (30_encoding.md R48, R50). -/
theorem toNat_ofNat_four_of_le_ten {n : Nat} (h : n ≤ 10) : (BitVec.ofNat 4 n).toNat = n := by
  rw [BitVec.toNat_ofNat, Nat.mod_eq_of_lt (by omega)]

/-- The bytes of an encode's response are the encoding. -/
theorem respBytes_encodeResp (u : U64) : respBytes (encodeResp u) = encU u := by
  have hten := length_encU_le_ten u
  have hlen : (encodeResp u).len.toNat = (encU u).length := toNat_ofNat_four_of_le_ten hten
  rw [respBytes, hlen]
  refine List.ext_getElem (by simp) fun k _ hk => ?_
  rw [List.getElem_map, List.getElem_range, encodeResp_bytes, listedBytesFillTheLanes _ _ (by omega),
    List.getD_eq_getElem _ _ hk]

theorem encodeUnsigned_eq (policy : TenthPolicy) (v : U64) : encodeUnsigned policy v = encU v :=
  respBytes_encodeResp v

theorem encodeSigned_eq (policy : TenthPolicy) (v : Int) :
    encodeSigned policy v = encU (zz (BitVec.ofInt 64 v)) :=
  respBytes_encodeResp _

/-- The command for a buffer that starts with an encoding decodes to its value and length. -/
theorem decU_bufferCommand (policy : TenthPolicy) (op : BitVec 2) (u : U64) (rest : List Byte) :
    decU policy (bufferCommand op (encU u ++ rest)).inBytes (bufferCommand op (encU u ++ rest)).inAvail.toNat =
      { status := .ok, value := u, len := (encU u).length } := by
  have hten := length_encU_le_ten u
  apply decU_of_encU
  · intro k hk
    exact (listedBytesFillTheLanes _ k (by omega)).trans (List.getD_append _ _ _ _ hk)
  · rw [bufferCommand, toNat_ofNat_four_of_le_ten (Nat.min_le_right _ _), List.length_append]
    omega

/-- `DECU` on a buffer that starts with an encoding answers OK with its value and length. -/
theorem execute_bufferCommand_decu (policy : TenthPolicy) (u : U64) (rest : List Byte) :
    execute policy (bufferCommand 0b10#2 (encU u ++ rest)) =
      decodeResp { status := .ok, value := u, len := (encU u).length } u := by
  have hop (c : Cmd) (h : c.op = 0b10#2) : decode c = .decu c.inBytes c.inAvail.toNat := by simp [decode, h]
  rw [execute_eq_answer_decode, hop _ rfl, answer, decU_bufferCommand]

/-- `DECS` on a buffer that starts with an encoding answers OK with the inverse zig-zag image of its value. -/
theorem execute_bufferCommand_decs (policy : TenthPolicy) (u : U64) (rest : List Byte) :
    execute policy (bufferCommand 0b11#2 (encU u ++ rest)) =
      decodeResp { status := .ok, value := u, len := (encU u).length } (unZZ u) := by
  have hop (c : Cmd) (h : c.op = 0b11#2) : decode c = .decs c.inBytes c.inAvail.toNat := by simp [decode, h]
  rw [execute_eq_answer_decode, hop _ rfl, answer, decU_bufferCommand, signedValue, if_pos rfl]

/-- The caller reads an encoding's value back and learns its length, whatever follows it in the buffer. -/
theorem decodeUnsigned_encU_append (policy : TenthPolicy) (u : U64) (rest : List Byte) :
    decodeUnsigned policy (encU u ++ rest) = .ok (u, (encU u).length) := by
  simp [decodeUnsigned, execute_bufferCommand_decu, statusCode, toNat_ofNat_four_of_le_ten (length_encU_le_ten u)]

/-- The caller reads the inverse zig-zag image of an encoding's value, whatever follows it in the buffer. -/
theorem decodeSigned_encU_append (policy : TenthPolicy) (u : U64) (rest : List Byte) :
    decodeSigned policy (encU u ++ rest) = .ok ((unZZ u).toInt, (encU u).length) := by
  simp [decodeSigned, execute_bufferCommand_decs, statusCode, toNat_ofNat_four_of_le_ten (length_encU_le_ten u)]

/-! #### A stream of encodings (20_memory.md R44) -/

/-- The inverse transform undoes the forward one (42_zig_zag.md R84): the shift back fills bit 63 with the
sign that bit 0 keeps. -/
theorem unZZ_zz (x : U64) : unZZ (zz x) = x := by
  cases hs : x.getLsbD 63 with
  | true =>
    rw [zz, if_pos hs, unZZ, if_pos (by simp)]
    apply BitVec.eq_of_getLsbD_eq
    intro i hi
    rcases Nat.lt_or_eq_of_le (Nat.le_of_lt_succ hi) with hlow | rfl
    · simp [hi, Nat.add_comm 1 i, Nat.succ_lt_succ hlow]
    · simp [hs]
  | false =>
    rw [zz, if_neg (hs ▸ Bool.false_ne_true), unZZ, if_neg (by simp)]
    apply BitVec.eq_of_getLsbD_eq
    intro i hi
    rcases Nat.lt_or_eq_of_le (Nat.le_of_lt_succ hi) with hlow | rfl
    · simp [hi, Nat.add_comm 1 i, Nat.succ_lt_succ hlow]
    · simpa using hs.symm

section
variable {α : Type} {decodeOne : List Byte → Except (BitVec 2) (α × Nat)}

/-- One integer read: the host advances by its length (20_memory.md R44). -/
theorem parseStream_of_ok (rounds : Nat) {bs : List Byte} {v : α} {n : Nat} (hne : bs ≠ [])
    (h : decodeOne bs = .ok (v, n)) :
    parseStream decodeOne (rounds + 1) bs =
      (v :: (parseStream decodeOne rounds (bs.drop n)).1, (parseStream decodeOne rounds (bs.drop n)).2) := by
  cases bs with
  | nil => exact absurd rfl hne
  | cons b bs => simp only [parseStream, h]

/-- A stream of byte sequences, each of which decodes to its value and its own length whatever follows it,
parses back to the values. -/
theorem parseStream_flatten (enc : α → List Byte) {vs : List α} {rounds : Nat} (hrounds : vs.length ≤ rounds)
    (hne : ∀ v ∈ vs, enc v ≠ [])
    (hdec : ∀ v ∈ vs, ∀ rest, decodeOne (enc v ++ rest) = .ok (v, (enc v).length)) :
    parseStream decodeOne rounds (vs.map enc).flatten = (vs, none) := by
  induction vs generalizing rounds with
  | nil => cases rounds <;> rfl
  | cons v vs ih =>
    cases rounds with
    | zero => exact absurd hrounds (Nat.not_succ_le_zero _)
    | succ rounds =>
      have hrest := ih (Nat.le_of_succ_le_succ hrounds) (fun x hx => hne x (.tail _ hx))
        fun x hx => hdec x (.tail _ hx)
      rw [List.map_cons, List.flatten_cons,
        parseStream_of_ok rounds (List.append_ne_nil_of_left_ne_nil (hne v (.head _)) _) (hdec v (.head _) _),
        List.drop_left, hrest]

end

/-- Settles O32: an encoding is read back whatever follows it, so the host reads the stream one encoding at a
time, by induction on the values. -/
theorem streamsOfEncodingsParseBack : Obligations.StreamsOfEncodingsParseBack := by
  refine ⟨fun policy vs rounds hrounds => ?_, fun policy vs rounds hrounds hrange => ?_⟩
  · refine parseStream_flatten _ hrounds (fun v _ => ?_) fun v _ rest => ?_ <;> rw [encodeUnsigned_eq]
    · exact encU_ne_nil v
    · exact decodeUnsigned_encU_append policy v rest
  · refine parseStream_flatten _ hrounds (fun v _ => ?_) fun v hv rest => ?_ <;> rw [encodeSigned_eq]
    · exact encU_ne_nil _
    · obtain ⟨hlow, hhigh⟩ := hrange v hv
      rw [decodeSigned_encU_append, unZZ_zz,
        BitVec.toInt_ofInt_eq_self (by omega) hlow (Int.lt_of_le_sub_one hhigh)]

end Sys2Proof.Machine
end

section
/-! SUPPORT. The two 150-bit words as their fields side by side (30_encoding.md R48, R50). -/

namespace Sys2Proof.Machine

/-- The layout the two words share: a 2-bit code lowest, then a 4-bit count, a 64-bit value and ten bytes. -/
def fieldWord (code : BitVec 2) (count : BitVec 4) (value : U64) (bytes : Lanes) : BitVec 150 :=
  bytes ++ value ++ count ++ code

/-- Fields shifted to their places and joined by OR are the fields side by side. -/
theorem or_shifted_fields_eq_fieldWord (code : BitVec 2) (count : BitVec 4) (value : U64) (bytes : Lanes) :
    code.setWidth 150 ||| (count.setWidth 150 <<< 2) ||| (value.setWidth 150 <<< 6) ||| (bytes.setWidth 150 <<< 70) =
      fieldWord code count value bytes := by
  have happend := BitVec.setWidth_append_append_append_eq_shiftLeft_setWidth_or (w'''' := 150)
    (b := bytes) (b' := value) (b'' := count) (b''' := code)
  rw [BitVec.or_comm (code.setWidth 150), BitVec.or_comm _ (value.setWidth 150 <<< 6),
    BitVec.or_comm _ (bytes.setWidth 150 <<< 70), ← BitVec.or_assoc, ← BitVec.or_assoc]
  exact happend.symm.trans (BitVec.setWidth_eq _)

theorem cmd_word_eq_fieldWord (c : Cmd) : c.word = fieldWord c.op c.inAvail c.value c.inBytes :=
  or_shifted_fields_eq_fieldWord _ _ _ _

theorem resp_word_eq_fieldWord (r : Resp) : r.word = fieldWord r.status r.len r.value r.bytes :=
  or_shifted_fields_eq_fieldWord _ _ _ _

section
variable (code : BitVec 2) (count : BitVec 4) (value : U64) (bytes : Lanes)

@[simp] theorem fieldWord_code : (fieldWord code count value bytes).extractLsb' 0 2 = code :=
  BitVec.extractLsb'_append_eq_right

@[simp] theorem fieldWord_count : (fieldWord code count value bytes).extractLsb' 2 4 = count := by
  rw [fieldWord, BitVec.extractLsb'_append_eq_of_le le_rfl]
  exact BitVec.extractLsb'_append_eq_right

@[simp] theorem fieldWord_value : (fieldWord code count value bytes).extractLsb' 6 64 = value := by
  rw [fieldWord, BitVec.extractLsb'_append_eq_of_le (by omega), BitVec.extractLsb'_append_eq_of_le (by omega)]
  exact BitVec.extractLsb'_append_eq_right

/-- Bits from 70 on are bits of the bytes. -/
theorem fieldWord_extractLsb'_bytes (start len : Nat) :
    (fieldWord code count value bytes).extractLsb' (70 + start) len = bytes.extractLsb' start len := by
  rw [fieldWord, BitVec.extractLsb'_append_eq_of_le (by omega), BitVec.extractLsb'_append_eq_of_le (by omega),
    BitVec.extractLsb'_append_eq_of_le (by omega)]
  congr 1
  omega

@[simp] theorem fieldWord_bytes : (fieldWord code count value bytes).extractLsb' 70 80 = bytes :=
  (fieldWord_extractLsb'_bytes code count value bytes 0 80).trans BitVec.extractLsb'_eq_self

/-- Byte `k` of the vector stands at bits `[70+8k+7 : 70+8k]`. -/
theorem fieldWord_lane (k : Nat) :
    (fieldWord code count value bytes).extractLsb' (70 + 8 * k) 8 = lane bytes k :=
  fieldWord_extractLsb'_bytes code count value bytes (8 * k) 8

end

/-- The fields of a word side by side are the word: no bit is lost. -/
theorem fieldWord_of_fields (w : BitVec 150) :
    fieldWord (w.extractLsb' 0 2) (w.extractLsb' 2 4) (w.extractLsb' 6 64) (w.extractLsb' 70 80) = w := by
  have hvalue : w.extractLsb' 70 80 ++ w.extractLsb' 6 64 = w.extractLsb' 6 144 :=
    BitVec.extractLsb'_append_extractLsb'_eq_extractLsb' rfl
  have hcount : w.extractLsb' 6 144 ++ w.extractLsb' 2 4 = w.extractLsb' 2 148 :=
    BitVec.extractLsb'_append_extractLsb'_eq_extractLsb' rfl
  rw [fieldWord, hvalue, hcount]
  exact BitVec.extractLsb'_append_extractLsb'

theorem cmd_ofWord_word (c : Cmd) : Cmd.ofWord c.word = c := by
  simp [Cmd.ofWord, cmd_word_eq_fieldWord]

theorem cmd_word_ofWord (w : BitVec 150) : (Cmd.ofWord w).word = w :=
  (cmd_word_eq_fieldWord _).trans (fieldWord_of_fields w)

theorem resp_ofWord_word (r : Resp) : Resp.ofWord r.word = r := by
  simp [Resp.ofWord, resp_word_eq_fieldWord]

theorem resp_word_ofWord (w : BitVec 150) : (Resp.ofWord w).word = w :=
  (resp_word_eq_fieldWord _).trans (fieldWord_of_fields w)

/-- Settles O1: the word is its fields side by side. -/
theorem commandWordFieldsStandAtTheirBits : Obligations.CommandWordFieldsStandAtTheirBits := by
  refine ⟨fun c => ?_, cmd_word_ofWord⟩
  have hround := cmd_ofWord_word c
  rw [cmd_word_eq_fieldWord] at hround ⊢
  exact ⟨fieldWord_code .., fieldWord_count .., fieldWord_value .., fieldWord_bytes ..,
    fun k _ => fieldWord_lane _ _ _ _ k, hround⟩

end Sys2Proof.Machine
end

section
/-! SUPPORT. The decoder, the encoder and the assembler: what each value of `op` selects, and that the decoder
undoes the encoder (30_encoding.md R52 to R58). -/

namespace Sys2Proof.Machine

/-! #### The four operation codes (30_encoding.md R52) -/

/-- All four values of the field are defined. -/
theorem op_cases (op : BitVec 2) : op = 0b00#2 ∨ op = 0b01#2 ∨ op = 0b10#2 ∨ op = 0b11#2 := by
  revert op
  decide

section
variable {c : Cmd}

theorem decode_of_op_encu (h : c.op = 0b00#2) : decode c = .encu c.value := by
  simp [decode, h]

theorem decode_of_op_encs (h : c.op = 0b01#2) : decode c = .encs c.value := by
  simp [decode, h]

theorem decode_of_op_decu (h : c.op = 0b10#2) : decode c = .decu c.inBytes c.inAvail.toNat := by
  simp [decode, h]

theorem decode_of_op_decs (h : c.op = 0b11#2) : decode c = .decs c.inBytes c.inAvail.toNat := by
  simp [decode, h]

/-- `op[1]` = 0 is an encode of `value`, unsigned or signed. -/
theorem decode_of_op_encode (h : c.op.getLsbD 1 = false) :
    c.op = 0b00#2 ∧ decode c = .encu c.value ∨ c.op = 0b01#2 ∧ decode c = .encs c.value := by
  rcases op_cases c.op with hop | hop | hop | hop
  · exact .inl ⟨hop, decode_of_op_encu hop⟩
  · exact .inr ⟨hop, decode_of_op_encs hop⟩
  all_goals rw [hop] at h; exact absurd h (by decide)

/-- `op[1]` = 1 is a decode of the window, unsigned or signed. -/
theorem decode_of_op_decode (h : c.op.getLsbD 1 = true) :
    c.op = 0b10#2 ∧ decode c = .decu c.inBytes c.inAvail.toNat ∨
      c.op = 0b11#2 ∧ decode c = .decs c.inBytes c.inAvail.toNat := by
  rcases op_cases c.op with hop | hop | hop | hop
  case inr.inr.inl => exact .inl ⟨hop, decode_of_op_decu hop⟩
  case inr.inr.inr => exact .inr ⟨hop, decode_of_op_decs hop⟩
  all_goals rw [hop] at h; exact absurd h (by decide)

end

/-- Settles O5. -/
theorem operationMapSelectsOneOfFour : Obligations.OperationMapSelectsOneOfFour := by
  refine fun c => ⟨decode_of_op_encu, decode_of_op_encs, decode_of_op_decu, decode_of_op_decs, ?_⟩
  rcases op_cases c.op with h | h | h | h
  · simp [h, decode_of_op_encu h]
  · simp [h, decode_of_op_encs h]
  · simp [h, decode_of_op_decu h]
  · simp [h, decode_of_op_decs h]

/-- Settles O6: the two commands decode to one instruction. -/
theorem ignoredFieldsHaveNoEffect : Obligations.IgnoredFieldsHaveNoEffect := by
  intro c d s hop
  refine ⟨fun h hv => ?_, fun h hb ha => ?_⟩
  · have hdecode : decode c = decode d := by
      rcases decode_of_op_encode h with ⟨ho, hc⟩ | ⟨ho, hc⟩
      · rw [hc, decode_of_op_encu (hop ▸ ho), hv]
      · rw [hc, decode_of_op_encs (hop ▸ ho), hv]
    rw [hdecode]
  · have hdecode : decode c = decode d := by
      rcases decode_of_op_decode h with ⟨ho, hc⟩ | ⟨ho, hc⟩
      · rw [hc, decode_of_op_decu (hop ▸ ho), hb, ha]
      · rw [hc, decode_of_op_decs (hop ▸ ho), hb, ha]
    rw [hdecode]

/-- The decoder keeps the operation code. -/
theorem op_decode (c : Cmd) : (decode c).op = c.op := by
  rcases op_cases c.op with h | h | h | h
  · rw [decode_of_op_encu h, h]; rfl
  · rw [decode_of_op_encs h, h]; rfl
  · rw [decode_of_op_decu h, h]; rfl
  · rw [decode_of_op_decs h, h]; rfl

/-- Every command decodes to a well-formed instruction (30_encoding.md R55): its count is a 4-bit field. -/
theorem wellFormed_decode (c : Cmd) : (decode c).wellFormed = true := by
  have havail : c.inAvail.toNat < 16 := c.inAvail.isLt
  rcases op_cases c.op with h | h | h | h
  · rw [decode_of_op_encu h]; rfl
  · rw [decode_of_op_encs h]; rfl
  · rw [decode_of_op_decu h]; exact decide_eq_true havail
  · rw [decode_of_op_decs h]; exact decide_eq_true havail

/-! #### Numbers as command words -/

theorem decodeWord_of_lt {w : Nat} (h : w < 2 ^ 150) :
    decodeWord w = .ok (decode (Cmd.ofWord (BitVec.ofNat 150 w))) := if_pos h

theorem decodeWord_of_ge {w : Nat} (h : 2 ^ 150 ≤ w) : decodeWord w = .error .notACommandWord :=
  if_neg (Nat.not_lt.2 h)

theorem decodeWord_toNat (w : BitVec 150) : decodeWord w.toNat = .ok (decode (Cmd.ofWord w)) := by
  rw [decodeWord_of_lt w.isLt, BitVec.ofNat_toNat, BitVec.setWidth_eq]

/-- Settles O4. -/
theorem everyCommandWordDecodes : Obligations.EveryCommandWordDecodes := by
  refine fun w => ⟨fun h => ⟨_, decodeWord_of_lt h, wellFormed_decode _, ?_⟩, decodeWord_of_ge⟩
  calc (decode (Cmd.ofWord (BitVec.ofNat 150 w))).op.toNat
    _ = ((BitVec.ofNat 150 w).extractLsb' 0 2).toNat := by rw [op_decode]; rfl
    _ = w % 2 ^ 150 % 2 ^ 2 := by simp
    _ = w % 4 := by rw [Nat.mod_eq_of_lt h]; rfl

/-- Settles O7. -/
theorem writtenOutWordsDecode : Obligations.WrittenOutWordsDecode := ⟨rfl, rfl, rfl, rfl⟩

/-! #### The encoder -/

/-- The decoder undoes the encoder: a count below 16 fits the field `in_avail`. -/
theorem decode_encode {i : Instr} (h : i.wellFormed = true) : decode (encode i) = i := by
  have hcount {a : Nat} (ha : decide (a < 16) = true) : (BitVec.ofNat 4 a).toNat = a := by
    rw [BitVec.toNat_ofNat, Nat.mod_eq_of_lt (of_decide_eq_true ha)]
  cases i with
  | encu v => exact decode_of_op_encu rfl
  | encs v => exact decode_of_op_encs rfl
  | decu b a => exact (decode_of_op_decu rfl).trans (congrArg _ (hcount h))
  | decs b a => exact (decode_of_op_decs rfl).trans (congrArg _ (hcount h))

/-- Settles O3: the word keeps the command, and the command the instruction. -/
theorem decodeOfEncodeIsTheInstruction : Obligations.DecodeOfEncodeIsTheInstruction := by
  intro i h
  refine ⟨decode_encode h, ?_⟩
  rw [decodeWord_toNat, encodeWord, cmd_ofWord_word, decode_encode h]

/-- Every instruction's command has its operation code and 0 in the fields it ignores. -/
theorem encodesItsOperation (i : Instr) : Laws.EncodesItsOperation.Statement i := by
  cases i with
  | encu v => exact Laws.EncodesItsOperation.encu v
  | encs v => exact Laws.EncodesItsOperation.encs v
  | decu b a => exact Laws.EncodesItsOperation.decu b a
  | decs b a => exact Laws.EncodesItsOperation.decs b a

/-- Settles O9: a listing assembles to the command of its instruction. -/
theorem listingsAssembleToTheirCommands : Obligations.ListingsAssembleToTheirCommands := by
  refine ⟨fun l hwf => ?_, fun v s bs a => ⟨rfl, rfl, rfl, rfl⟩, fun bs => ⟨rfl, rfl⟩⟩
  obtain ⟨hop, hencode, hdecode⟩ := encodesItsOperation l.instr
  rw [← hop] at hencode hdecode
  exact ⟨decode_encode hwf, hencode, hdecode⟩

end Sys2Proof.Machine
end

section
/-! SUPPORT. What a response can hold (30_encoding.md R50, R51; 41_varint_decoder.md R71 to R75;
60_exceptions.md R89, R90). -/

namespace Sys2Proof.Machine

/-- Settles O10. -/
theorem everyCommandExecutesTotally : Obligations.EveryCommandExecutesTotally := exec_decode

/-! #### The results of the decoder -/

/-- A count past ten means ten (30_encoding.md R49). -/
theorem decU_of_ge_ten (policy : TenthPolicy) (b : Lanes) {a : Nat} (h : 10 ≤ a) :
    decU policy b a = decU policy b 10 := by
  have havail : availBytes a = availBytes 10 := Nat.min_eq_right h
  rw [decU, decU, havail]

/-- Settles O23. -/
theorem countsPastTenMeanTen : Obligations.CountsPastTenMeanTen := by
  intro b a s h
  constructor <;> rw [exec_eq_answer, exec_eq_answer, answer, answer, decU_of_ge_ten _ _ h]

section
variable {policy : TenthPolicy} {b : Lanes} {avail : Nat}

/-- A window whose first terminator byte is a rejected tenth byte is MALFORMED (41_varint_decoder.md R74). -/
theorem decU_of_tenthRejected {t : Nat} (ht : FirstTerminator b (min avail 10) t) (hr : TenthRejected policy b t) :
    decU policy b avail = { status := .malformed, value := 0#64, len := 10 } := by
  obtain ⟨hlt, hterm, hcont⟩ := ht
  have hten : maxLen = (9 - t) + 1 + t := by unfold maxLen; omega
  rw [decU, show availBytes avail = min avail 10 from rfl, hten, decLoop_after_continuations policy _ hlt.le hcont,
    decLoop_tenth_rejected (Nat.ne_of_lt hlt) hterm hr]
  rfl

/-- A buffer that ends before a terminator byte is INCOMPLETE (41_varint_decoder.md R72). -/
theorem decU_of_noTerminator_of_lt_ten (ha : avail < 10) (hn : NoTerminator b avail) :
    decU policy b avail = { status := .incomplete, value := 0#64, len := avail } := by
  have hten : maxLen = (9 - avail) + 1 + avail := by unfold maxLen; omega
  rw [decU, show availBytes avail = avail from Nat.min_eq_left ha.le, hten,
    decLoop_after_continuations policy _ le_rfl hn, decLoop_at_end rfl]

/-- Ten bytes without a terminator byte are MALFORMED (41_varint_decoder.md R73). -/
theorem decU_of_noTerminator_of_ge_ten (ha : 10 ≤ avail) (hn : NoTerminator b 10) :
    decU policy b avail = { status := .malformed, value := 0#64, len := 10 } := by
  rw [decU, show availBytes avail = 10 from Nat.min_eq_right ha, show maxLen = 0 + 10 from rfl,
    decLoop_after_continuations policy _ le_rfl hn, decLoop_no_lane_left]
  rfl

end

/-- The three results of a decode, with the count each one needs (41_varint_decoder.md R75, 60_exceptions.md
R90). -/
theorem decU_cases (policy : TenthPolicy) (b : Lanes) (avail : Nat) :
    (∃ v len, decU policy b avail = { status := .ok, value := v, len := len } ∧ 1 ≤ len ∧ len ≤ 10) ∨
    (avail < 10 ∧ decU policy b avail = { status := .incomplete, value := 0#64, len := avail }) ∨
    (10 ≤ avail ∧ decU policy b avail = { status := .malformed, value := 0#64, len := 10 }) := by
  rcases firstTerminator_or_none b (min avail 10) with ⟨t, ht⟩ | hn
  · have hlt : t < min avail 10 := ht.1
    by_cases hr : TenthRejected policy b t
    · have h9 : t = 9 := hr.1
      exact .inr (.inr ⟨by omega, decU_of_tenthRejected ht hr⟩)
    · exact .inl ⟨_, _, decU_of_firstTerminator ht hr, by omega, by omega⟩
  · rcases Nat.lt_or_ge avail 10 with ha | ha
    · exact .inr (.inl ⟨ha, decU_of_noTerminator_of_lt_ten ha (Nat.min_eq_left ha.le ▸ hn)⟩)
    · exact .inr (.inr ⟨ha, decU_of_noTerminator_of_ge_ten ha (Nat.min_eq_right ha ▸ hn)⟩)

/-- A decode that fails gives the value 0. -/
theorem decU_value_of_error {policy : TenthPolicy} {b : Lanes} {avail : Nat}
    (h : (decU policy b avail).status ≠ .ok) : (decU policy b avail).value = 0#64 := by
  rcases decU_cases policy b avail with ⟨v, len, hd, -⟩ | ⟨-, hd⟩ | ⟨-, hd⟩
  · exact absurd (congrArg Decoded.status hd) h
  · rw [hd]
  · rw [hd]

/-! #### The responses -/

/-- `op[1]` = 0 is answered by the response of an encode. -/
theorem execute_of_op_encode (policy : TenthPolicy) {c : Cmd} (h : c.op.getLsbD 1 = false) :
    ∃ u, execute policy c = encodeResp u := by
  rcases decode_of_op_encode h with ⟨-, hc⟩ | ⟨-, hc⟩
  · exact ⟨c.value, by rw [execute_eq_answer_decode, hc, answer]⟩
  · exact ⟨zz c.value, by rw [execute_eq_answer_decode, hc, answer]⟩

/-- `op[1]` = 1 is answered by the response of a decode, whose value on an error is 0. -/
theorem execute_of_op_decode (policy : TenthPolicy) {c : Cmd} (h : c.op.getLsbD 1 = true) :
    ∃ v, execute policy c = decodeResp (decU policy c.inBytes c.inAvail.toNat) v ∧
      ((decU policy c.inBytes c.inAvail.toNat).status ≠ .ok → v = 0#64) := by
  rcases decode_of_op_decode h with ⟨-, hc⟩ | ⟨-, hc⟩
  · exact ⟨_, by rw [execute_eq_answer_decode, hc, answer], decU_value_of_error⟩
  · refine ⟨_, by rw [execute_eq_answer_decode, hc, answer], fun herr => ?_⟩
    exact if_neg herr

/-- The response of an encode is OK with 1 to 10 bytes, and 0 in the lanes past them (30_encoding.md R51). -/
theorem encodeResp_allowed (u : U64) :
    (encodeResp u).status = 0#2 ∧ 1 ≤ (encodeResp u).len.toNat ∧ (encodeResp u).len.toNat ≤ 10 ∧
      ∀ k < 10, (encodeResp u).len.toNat ≤ k → lane (encodeResp u).bytes k = 0x00#8 := by
  obtain ⟨hpos, hten, -, -⟩ := wellFormedEncoding_encU u
  rw [encodeResp_len, toNat_ofNat_four_of_le_ten hten]
  refine ⟨rfl, hpos, hten, fun k hk hlen => ?_⟩
  rw [encodeResp_bytes, listedBytesFillTheLanes _ _ hk, List.getD_eq_default _ _ hlen]

/-- The three responses of a decode (30_encoding.md R51, 41_varint_decoder.md R75). -/
theorem execute_decode_cases (policy : TenthPolicy) {c : Cmd} (h : c.op.getLsbD 1 = true) :
    (∃ v len, execute policy c = { status := 0#2, len := BitVec.ofNat 4 len, value := v, bytes := 0#80 } ∧
      1 ≤ len ∧ len ≤ 10) ∨
    (c.inAvail.toNat < 10 ∧
      execute policy c = { status := 1#2, len := c.inAvail, value := 0#64, bytes := 0#80 }) ∨
    (10 ≤ c.inAvail.toNat ∧
      execute policy c = { status := 2#2, len := 10#4, value := 0#64, bytes := 0#80 }) := by
  obtain ⟨v, hv, herr⟩ := execute_of_op_decode policy h
  rcases decU_cases policy c.inBytes c.inAvail.toNat with ⟨w, len, hd, hlen⟩ | ⟨ha, hd⟩ | ⟨ha, hd⟩ <;>
    rw [hd] at hv herr
  · exact .inl ⟨v, len, hv, hlen⟩
  · rw [herr nofun, decodeResp, BitVec.ofNat_toNat, BitVec.setWidth_eq] at hv
    exact .inr (.inl ⟨ha, hv⟩)
  · rw [herr nofun] at hv
    exact .inr (.inr ⟨ha, hv⟩)

/-- Status 3 and the lengths 11 to 15 are never produced (30_encoding.md R55, 60_exceptions.md R89). -/
theorem execute_status_and_len (policy : TenthPolicy) (c : Cmd) :
    (execute policy c).status ≠ 3#2 ∧ (execute policy c).len.toNat ≤ 10 := by
  cases h : c.op.getLsbD 1 with
  | false =>
    obtain ⟨u, hu⟩ := execute_of_op_encode policy h
    obtain ⟨hstatus, -, hten, -⟩ := encodeResp_allowed u
    rw [hu, hstatus]
    exact ⟨by decide, hten⟩
  | true =>
    rcases execute_decode_cases policy h with ⟨v, len, hr, -, hten⟩ | ⟨ha, hr⟩ | ⟨-, hr⟩ <;> rw [hr]
    · exact ⟨by simp, (toNat_ofNat_four_of_le_ten hten).le.trans hten⟩
    · exact ⟨by simp, ha.le⟩
    · exact ⟨by simp, by simp⟩

/-- Settles O2: the layout of `fieldWord`, and the responses there are. -/
theorem responseWordFieldsStandAtTheirBits : Obligations.ResponseWordFieldsStandAtTheirBits := by
  refine ⟨fun r => ?_, resp_word_ofWord, rfl, rfl, rfl, execute_status_and_len⟩
  have hround := resp_ofWord_word r
  rw [resp_word_eq_fieldWord] at hround ⊢
  exact ⟨fieldWord_code .., fieldWord_count .., fieldWord_value .., fieldWord_bytes ..,
    fun k _ => fieldWord_lane _ _ _ _ k, hround⟩

/-- Settles O17: an encode answers OK, and a decode in one of three ways. -/
theorem everyResponseIsOneTheSpecAllows : Obligations.EveryResponseIsOneTheSpecAllows := by
  intro policy c
  obtain ⟨hstatus, hlen⟩ := execute_status_and_len policy c
  refine ⟨hstatus, hlen, fun h => ?_, fun h => ?_⟩
  · obtain ⟨u, hu⟩ := execute_of_op_encode policy h
    obtain ⟨hok, hpos, -, hlanes⟩ := encodeResp_allowed u
    rw [hu]
    exact ⟨hok, hpos, hlanes⟩
  · rcases execute_decode_cases policy h with ⟨v, len, hr, hpos, hten⟩ | ⟨ha, hr⟩ | ⟨ha, hr⟩ <;> rw [hr]
    · simp [Nat.mod_eq_of_lt (show len < 16 by omega), hpos]
    · simp [ha]
    · simp [ha]

end Sys2Proof.Machine
end

section
/-! SUPPORT. The guarantees of the encoder (40_varint_encoder.md R61 to R66): the ranges of its lengths, its
minimality, framing and injectivity, and what `ENCU` answers. -/

namespace Sys2Proof.Machine

/-! #### The length of an encoding by the range of its value -/

/-- A value has at most `n` bytes exactly when `7n` bits hold it (40_varint_encoder.md R63). -/
theorem length_encU_le_iff (u : U64) {n : Nat} (hn : 1 ≤ n) : (encU u).length ≤ n ↔ u.toNat < 2 ^ (7 * n) := by
  rw [length_encU, minimalLength_le_iff u hn]

/-- The tenth byte is for bit 63 alone (40_varint_encoder.md R63). -/
theorem length_encU_eq_ten_iff (u : U64) : (encU u).length = 10 ↔ 2 ^ 63 ≤ u.toNat := by
  have hten := length_encU_le_ten u
  have hnine : (encU u).length ≤ 9 ↔ u.toNat < 2 ^ 63 := length_encU_le_iff u (by norm_num)
  omega

/-- Settles O18. -/
theorem encodingLengthByRange : Obligations.EncodingLengthByRange := fun u =>
  ⟨fun _ hn _ => length_encU_le_iff u hn, length_encU_eq_ten_iff u⟩

/-! #### Minimality, framing, injectivity (40_varint_encoder.md R64) -/

/-- With one byte less, the value would not fit: the last group of 7 bits is not 0. -/
theorem payload_last_encU_ne_zero {u : U64} (h : 2 ≤ (encU u).length) :
    payload ((encU u).getD ((encU u).length - 1) 0x00#8) ≠ 0#7 := by
  have hlt : (encU u).length - 1 < minimalLength u := by rw [← length_encU]; omega
  have hbelow : u.toNat < 2 ^ (7 * ((encU u).length - 1)) * 2 ^ 7 := by
    rw [← pow_add, ← Nat.mul_succ, ← length_encU_le_iff u (by omega)]
    omega
  have habove : 2 ^ (7 * ((encU u).length - 1)) ≤ u.toNat := by
    rw [← Nat.not_lt, ← length_encU_le_iff u (by omega)]
    omega
  rw [getD_encU, payload_closedLane hlt]
  intro hzero
  have hgroup := congrArg BitVec.toNat hzero
  rw [BitVec.extractLsb'_toNat, Nat.shiftRight_eq_div_pow, Nat.mod_eq_of_lt (Nat.div_lt_of_lt_mul hbelow)] at hgroup
  exact (Nat.div_pos habove (by positivity)).ne' hgroup

/-- Bit 7 says whether another byte follows: an encoding is well-formed (00_scope.md R12). -/
theorem continuationBit_encU {u : U64} {k : Nat} (hk : k < (encU u).length) :
    ((encU u).getD k 0x00#8).getLsbD 7 = decide (k + 1 < (encU u).length) := by
  obtain ⟨-, -, hterm, -⟩ := wellFormedEncoding_encU u
  have hbit : ((encU u).getD k 0x00#8).getLsbD 7 = !isTerminator ((encU u).getD k 0x00#8) := (Bool.not_not _).symm
  rw [hbit, hterm k hk, ← decide_not]
  exact decide_eq_decide.2 (by omega)

/-- The payloads of an encoding, put into a window, sum to its value. -/
theorem chunkSum_packLanes_encU (u : U64) : chunkSum (packLanes (encU u)) (encU u).length = u.toNat :=
  chunkSum_length_encU fun k hk => listedBytesFillTheLanes _ k (hk.trans_le (length_encU_le_ten u))

/-- The value can be read back from the encoding. -/
theorem encU_injective : Function.Injective encU := by
  intro u v h
  rw [← BitVec.toNat_inj, ← chunkSum_packLanes_encU u, h, chunkSum_packLanes_encU v]

/-- Settles O19. -/
theorem encodingGuarantees : Obligations.EncodingGuarantees := by
  refine ⟨fun u => ?_, fun _ _ h => encU_injective h⟩
  obtain ⟨hpos, hten, -, -⟩ := wellFormedEncoding_encU u
  exact ⟨hpos, hten, payload_last_encU_ne_zero, fun _ hk => continuationBit_encU hk⟩

/-- Settles O21: byte 9 is the tenth lane of the closed form. -/
theorem tenthByteOfAnEncodingIsOne : Obligations.TenthByteOfAnEncodingIsOne := fun u h =>
  (getD_encU u 9).trans (closedLane_nine (length_encU u ▸ h))

/-! #### What an encode answers (40_varint_encoder.md R65) -/

/-- The length field of an encode's response (40_varint_encoder.md R61). -/
theorem toNat_encodeResp_len (u : U64) : (encodeResp u).len.toNat = minimalLength u := by
  rw [encodeResp_len, toNat_ofNat_four_of_le_ten (length_encU_le_ten u), length_encU]

/-- The lanes of an encode's response (40_varint_encoder.md R62). -/
theorem lane_encodeResp_bytes (u : U64) {k : Nat} (hk : k < 10) : lane (encodeResp u).bytes k = closedLane u k := by
  rw [encodeResp_bytes, listedBytesFillTheLanes _ _ hk, getD_encU]

/-- Settles O12: the answer of `ENCU` is the response of an encode of its own value. -/
theorem encuAnswersTheMinimalEncoding : Obligations.EncuAnswersTheMinimalEncoding := fun v s =>
  ⟨encodeResp v, exec_eq_answer (.encu v) s, encodeResp_status v, toNat_encodeResp_len v, encodeResp_value v,
    fun _ hk => lane_encodeResp_bytes v hk⟩

end Sys2Proof.Machine
end

section
/-! SUPPORT. The decoder's answers (41_varint_decoder.md R70 to R78): the round trip, what `DECU` answers by the
first terminator byte of its window, and where `P_TENTH` matters. -/

namespace Sys2Proof.Machine

/-- Settles O25: `DecU` walks the encoding's continuation bytes to its terminator byte, and the payloads on the
way sum to the value. -/
theorem unsignedRoundTrip : Obligations.UnsignedRoundTrip := fun policy _ _ _ hw ha => decU_of_encU policy hw ha

/-- Settles O14: the answer of `DECU` is the result of `DecU`, which has an equation for each clause. -/
theorem decuAnswersByItsFirstTerminator : Obligations.DecuAnswersByItsFirstTerminator := by
  intro b a s
  refine ⟨answer s.pTenth (.decu b a), exec_eq_answer _ s, rfl, fun t ht hr => ?_, fun t ht hr => ?_,
    fun ha hn => ?_, fun ha hn => ?_⟩ <;> rw [answer]
  · have hlt : t < min a 10 := ht.1
    have hten : t + 1 ≤ 10 := by omega
    rw [decU_of_firstTerminator ht hr]
    exact ⟨rfl, toNat_ofNat_four_of_le_ten hten, rfl⟩
  · rw [decU_of_tenthRejected ht hr]
    exact ⟨rfl, rfl, rfl⟩
  · rw [decU_of_noTerminator_of_lt_ten ha hn]
    exact ⟨rfl, toNat_ofNat_four_of_le_ten ha.le, rfl⟩
  · rw [decU_of_noTerminator_of_ge_ten ha hn]
    exact ⟨rfl, rfl, rfl⟩

/-! #### The setting of `P_TENTH` (41_varint_decoder.md R74) -/

/-- TRUNCATE rejects no tenth byte. -/
theorem not_tenthRejected_truncate (b : Lanes) (t : Nat) : ¬ TenthRejected .truncate b t :=
  fun ⟨_, _, hp⟩ => nomatch hp

/-- A setting that does not reject the window's first terminator byte decodes as TRUNCATE does. -/
theorem decU_eq_truncate_of_not_tenthRejected {policy : TenthPolicy} {b : Lanes} {a : Nat}
    (hr : ∀ t, FirstTerminator b (min a 10) t → ¬ TenthRejected policy b t) :
    decU policy b a = decU .truncate b a := by
  rcases firstTerminator_or_none b (min a 10) with ⟨t, ht⟩ | hn
  · rw [decU_of_firstTerminator ht (hr t ht), decU_of_firstTerminator ht (not_tenthRejected_truncate b t)]
  · rcases Nat.lt_or_ge a 10 with ha | ha
    · rw [Nat.min_eq_left ha.le] at hn
      rw [decU_of_noTerminator_of_lt_ten ha hn, decU_of_noTerminator_of_lt_ten ha hn]
    · rw [Nat.min_eq_right ha] at hn
      rw [decU_of_noTerminator_of_ge_ten ha hn, decU_of_noTerminator_of_ge_ten ha hn]

/-- Settles O24: the settings decode alike unless MALFORMED rejects the first terminator byte, and there one
answers MALFORMED and the other OK. -/
theorem tenthPolicyMattersOnlyOnTenthByteOverflow : Obligations.TenthPolicyMattersOnlyOnTenthByteOverflow := by
  refine fun b a => ⟨fun hne => ?_, fun ⟨ht, hhigh⟩ heq => ?_⟩
  · by_contra hno
    refine hne (decU_eq_truncate_of_not_tenthRejected fun t ht hr => ?_)
    obtain ⟨rfl, hhigh, -⟩ := hr
    exact hno ⟨ht, hhigh⟩
  · rw [decU_of_tenthRejected ht ⟨rfl, hhigh, rfl⟩,
      decU_of_firstTerminator ht (not_tenthRejected_truncate b 9)] at heq
    exact nomatch congrArg Decoded.status heq

end Sys2Proof.Machine
end

section
/-! SUPPORT. The zig-zag transform (42_zig_zag.md R80 to R85) as integers and as bits, the signed lengths, and
what `ENCS` and `DECS` answer (R86, R87). -/

namespace Sys2Proof.Machine

/-! #### The forward transform -/

/-- Bit 63 of a pattern is the sign of its integer (00_scope.md R8). -/
theorem getLsbD_63_eq_decide_neg (x : U64) : x.getLsbD 63 = decide (x.toInt < 0) := by
  rw [← BitVec.msb_eq_toInt]
  rfl

theorem zz_of_nonneg {x : U64} (h : 0 ≤ x.toInt) : zz x = x <<< 1 := by
  rw [zz, getLsbD_63_eq_decide_neg, decide_eq_false (Int.not_lt.2 h), if_neg Bool.false_ne_true]

theorem zz_of_neg {x : U64} (h : x.toInt < 0) : zz x = ~~~(x <<< 1) := by
  rw [zz, getLsbD_63_eq_decide_neg, decide_eq_true h, if_pos rfl]

/-- The forward transform as integers (42_zig_zag.md R81): the shift drops the sign bit, so it doubles `s` modulo
`2^64`, and the complement of `2s` is `-2s - 1`. -/
theorem toNat_zz (x : U64) :
    ((zz x).toNat : Int) = if 0 ≤ x.toInt then 2 * x.toInt else -2 * x.toInt - 1 := by
  have hx := BitVec.toInt_eq_toNat_cond x
  have hlt := x.isLt
  split_ifs with h
  · rw [zz_of_nonneg h, BitVec.toNat_shiftLeft, Nat.shiftLeft_eq]
    omega
  · rw [zz_of_neg (Int.not_le.1 h), BitVec.toNat_not, BitVec.toNat_shiftLeft, Nat.shiftLeft_eq]
    omega

/-- Complementing under a condition is xor with 64 copies of it. -/
theorem ite_not_eq_xor_copies (c : Bool) (v : U64) :
    (if c then ~~~v else v) = v ^^^ (if c then BitVec.allOnes 64 else 0#64) := by
  cases c with
  | true => exact (BitVec.xor_allOnes).symm
  | false => exact (BitVec.xor_zero).symm

/-- The forward transform as bits (42_zig_zag.md R81). -/
theorem zz_eq_xor (x : U64) : zz x = (x <<< 1) ^^^ (if x.getLsbD 63 then BitVec.allOnes 64 else 0#64) :=
  ite_not_eq_xor_copies _ _

/-- A bit of 64 copies of one bit. -/
theorem getLsbD_copies (c : Bool) {k : Nat} (hk : k < 64) :
    (if c then BitVec.allOnes 64 else 0#64).getLsbD k = c := by
  cases c with
  | true => rw [if_pos rfl, BitVec.getLsbD_allOnes, decide_eq_true hk]
  | false => rw [if_neg Bool.false_ne_true, BitVec.getLsbD_zero]

/-- Bit 0 keeps the sign (42_zig_zag.md R81). -/
theorem getLsbD_zz_zero (x : U64) : (zz x).getLsbD 0 = x.getLsbD 63 := by
  rw [zz_eq_xor, BitVec.getLsbD_xor, getLsbD_copies _ (by norm_num)]
  simp

/-- Each other bit is the one below it, xor the sign (42_zig_zag.md R81). -/
theorem getLsbD_zz_succ (x : U64) {k : Nat} (hk : k < 63) :
    (zz x).getLsbD (k + 1) = (x.getLsbD k ^^ x.getLsbD 63) := by
  rw [zz_eq_xor, BitVec.getLsbD_xor, getLsbD_copies _ (by omega), BitVec.getLsbD_shiftLeft, decide_eq_true (by omega),
    decide_eq_false (by omega), Nat.add_sub_cancel]
  rfl

/-- Settles O27. -/
theorem zigZagAsIntegersAndAsBits : Obligations.ZigZagAsIntegersAndAsBits := fun x =>
  ⟨toNat_zz x, zz_eq_xor x, getLsbD_zz_zero x, fun _ hk => getLsbD_zz_succ x hk⟩

/-! #### The inverse transform -/

/-- Bit 0 of a pattern is the parity of its number. -/
theorem getLsbD_zero_eq_decide_odd (u : U64) : u.getLsbD 0 = decide (u.toNat % 2 = 1) := by
  rw [BitVec.getLsbD, Nat.testBit_zero]

theorem unZZ_of_even {u : U64} (h : u.toNat % 2 = 0) : unZZ u = u >>> 1 := by
  rw [unZZ, getLsbD_zero_eq_decide_odd, decide_eq_false (by omega), if_neg Bool.false_ne_true]

theorem unZZ_of_odd {u : U64} (h : u.toNat % 2 ≠ 0) : unZZ u = ~~~(u >>> 1) := by
  rw [unZZ, getLsbD_zero_eq_decide_odd, decide_eq_true (by omega), if_pos rfl]

/-- The inverse transform as integers (42_zig_zag.md R83): the shift halves, to a pattern of an integer from 0 on,
and the complement of `h` is `-h - 1`. -/
theorem toInt_unZZ (u : U64) :
    (unZZ u).toInt =
      if u.toNat % 2 = 0 then ((u.toNat / 2 : Nat) : Int) else -(((u.toNat + 1) / 2 : Nat) : Int) := by
  have hlt := u.isLt
  split_ifs with h
  · rw [unZZ_of_even h, BitVec.toInt_eq_toNat_cond, BitVec.toNat_ushiftRight, Nat.shiftRight_eq_div_pow]
    omega
  · rw [unZZ_of_odd h, BitVec.toInt_eq_toNat_cond, BitVec.toNat_not, BitVec.toNat_ushiftRight,
      Nat.shiftRight_eq_div_pow]
    omega

/-- The inverse transform as bits (42_zig_zag.md R83). -/
theorem unZZ_eq_xor (u : U64) : unZZ u = (u >>> 1) ^^^ (if u.getLsbD 0 then BitVec.allOnes 64 else 0#64) :=
  ite_not_eq_xor_copies _ _

/-- Bit 63 takes the sign back from bit 0 (42_zig_zag.md R83). -/
theorem getLsbD_unZZ_63 (u : U64) : (unZZ u).getLsbD 63 = u.getLsbD 0 := by
  rw [unZZ_eq_xor, BitVec.getLsbD_xor, getLsbD_copies _ (by norm_num)]
  simp

/-- Settles O28. -/
theorem unZigZagAsIntegersAndAsBits : Obligations.UnZigZagAsIntegersAndAsBits := fun u =>
  ⟨toInt_unZZ u, unZZ_eq_xor u, getLsbD_unZZ_63 u⟩

/-! #### The bijection (42_zig_zag.md R84) -/

/-- The forward transform undoes the inverse one: an even `u` comes from `u / 2`, an odd one from
`-(u + 1) / 2`. -/
theorem zz_unZZ (u : U64) : zz (unZZ u) = u := by
  have hzz := toNat_zz (unZZ u)
  rw [toInt_unZZ u] at hzz
  apply BitVec.eq_of_toNat_eq
  by_cases h : u.toNat % 2 = 0
  · rw [if_pos h] at hzz
    omega
  · rw [if_neg h] at hzz
    omega

/-- Settles O29. -/
theorem zigZagIsABijection : Obligations.ZigZagIsABijection := ⟨unZZ_zz, zz_unZZ, by decide, by decide⟩

/-! #### The length of a signed encoding by the range of its value (42_zig_zag.md R85) -/

/-- The transform takes the signed range `-p` to `p - 1` to the numbers below `2p`. -/
theorem toNat_zz_lt_iff (x : U64) (p : Nat) : (zz x).toNat < 2 * p ↔ -(p : Int) ≤ x.toInt ∧ x.toInt ≤ p - 1 := by
  have hzz := toNat_zz x
  omega

/-- A signed value has at most `n` bytes exactly when `7n` bits hold it, its sign among them. -/
theorem length_encU_zz_le_iff (x : U64) {n : Nat} (hn : 1 ≤ n) :
    (encU (zz x)).length ≤ n ↔ -(2 ^ (7 * n - 1)) ≤ x.toInt ∧ x.toInt ≤ 2 ^ (7 * n - 1) - 1 := by
  have hpow : 2 ^ (7 * n) = 2 * 2 ^ (7 * n - 1) := by rw [← pow_succ', Nat.sub_add_cancel (by omega)]
  rw [length_encU_le_iff _ hn, hpow, toNat_zz_lt_iff]
  push_cast
  rfl

/-- The tenth byte is for what 63 bits do not hold. -/
theorem length_encU_zz_eq_ten_iff (x : U64) :
    (encU (zz x)).length = 10 ↔ 2 ^ 62 ≤ x.toInt ∨ x.toInt ≤ -(2 ^ 62) - 1 := by
  have hrange := toNat_zz_lt_iff x (2 ^ 62)
  rw [length_encU_eq_ten_iff]
  omega

/-- Settles O30. -/
theorem signedEncodingLengthByRange : Obligations.SignedEncodingLengthByRange := fun x =>
  ⟨length_encU (zz x), fun _ hn _ => length_encU_zz_le_iff x hn, length_encU_zz_eq_ten_iff x⟩

/-! #### What `ENCS` and `DECS` answer (42_zig_zag.md R86, R87) -/

/-- Settles O13: the answer of `ENCS` is the response of an encode of the zig-zag image. -/
theorem encsAnswersTheEncodingOfTheZigZagImage : Obligations.EncsAnswersTheEncodingOfTheZigZagImage := fun x s =>
  ⟨encodeResp (zz x), exec_eq_answer (.encs x) s, encodeResp_status _, toNat_zz x, toNat_encodeResp_len _,
    fun _ hk => lane_encodeResp_bytes _ hk⟩

/-- On OK a signed decode gives the inverse transform (42_zig_zag.md R87). -/
theorem signedValue_of_ok {d : Decoded} (h : d.status = .ok) : signedValue d = unZZ d.value := if_pos h

/-- On an error a signed decode gives 0 (42_zig_zag.md R87). -/
theorem signedValue_of_error {d : Decoded} (h : d.status ≠ .ok) : signedValue d = 0#64 := if_neg h

/-- Settles O16: `DECU` and `DECS` answer from the same result of `DecU`, and differ in the value alone. -/
theorem decsAnswersTheInverseZigZagOfDecu : Obligations.DecsAnswersTheInverseZigZagOfDecu := by
  intro b a s
  refine ⟨answer s.pTenth (.decu b a), answer s.pTenth (.decs b a), exec_eq_answer _ s, exec_eq_answer _ s,
    rfl, rfl, rfl, fun hok => ?_, fun herr => ?_⟩
  · have hst : (decU s.pTenth b a).status = .ok := (statusCode_eq_zero _).1 hok
    exact (congrArg BitVec.toInt (signedValue_of_ok hst)).trans (toInt_unZZ _)
  · exact signedValue_of_error fun hst => herr ((statusCode_eq_zero _).2 hst)

/-- A window that starts with the bytes of an encode's response decodes to the value encoded, with the
response's length (41_varint_decoder.md R77). -/
theorem decU_of_encodeResp (policy : TenthPolicy) {u : U64} {w : Lanes} {avail : Nat}
    (hw : ∀ k < (encodeResp u).len.toNat, lane w k = lane (encodeResp u).bytes k)
    (ha : (encodeResp u).len.toNat ≤ avail) :
    decU policy w avail = { status := .ok, value := u, len := (encU u).length } := by
  have hten := length_encU_le_ten u
  rw [encodeResp_len, toNat_ofNat_four_of_le_ten hten] at hw ha
  refine decU_of_encU policy (fun k hk => ?_) ha
  rw [hw k hk, encodeResp_bytes, listedBytesFillTheLanes _ _ (by omega)]

/-- Settles O31: `DecU` finds the zig-zag image and its length, whatever follows it in the window, and the
inverse transform takes the image back. -/
theorem signedRoundTripThroughTheOperations : Obligations.SignedRoundTripThroughTheOperations := by
  refine fun x w avail s s' => ⟨encodeResp (zz x), exec_eq_answer (.encs x) s, fun hw ha => ?_⟩
  rw [exec_eq_answer, answer, decU_of_encodeResp s'.pTenth hw ha, signedValue_of_ok rfl, unZZ_zz]
  rfl

end Sys2Proof.Machine
end

section
/-! SUPPORT. The statements of 60_exceptions.md: the one status of a decode by its priority (R91), and the
independence of the blocks of a system (R101). -/

namespace Sys2Proof.Machine

/-! #### The status of a decode (60_exceptions.md R91) -/

/-- When a decode reports a status, read off the window alone: the conditions of 60_exceptions.md R91. -/
def StatusCondition (policy : TenthPolicy) (b : Lanes) (a : Nat) : Status → Prop
  | .ok => ∃ t, FirstTerminator b (min a 10) t ∧ ¬ TenthRejected policy b t
  | .incomplete => min a 10 < 10 ∧ NoTerminator b (min a 10)
  | .malformed =>
    (∃ t, FirstTerminator b (min a 10) t ∧ TenthRejected policy b t) ∨
    (min a 10 = 10 ∧ NoTerminator b (min a 10))

section
variable {policy : TenthPolicy} {b : Lanes} {a : Nat} {st : Status}

/-- The conditions leave no window and no count out. -/
theorem exists_statusCondition (policy : TenthPolicy) (b : Lanes) (a : Nat) :
    ∃ st, StatusCondition policy b a st := by
  rcases firstTerminator_or_none b (min a 10) with ⟨t, ht⟩ | hn
  · by_cases hr : TenthRejected policy b t
    · exact ⟨.malformed, .inl ⟨t, ht, hr⟩⟩
    · exact ⟨.ok, t, ht, hr⟩
  · rcases (Nat.min_le_right a 10).lt_or_eq with hlt | hten
    · exact ⟨.incomplete, hlt, hn⟩
    · exact ⟨.malformed, .inr ⟨hten, hn⟩⟩

/-- A decode reports a status whose condition holds. -/
theorem decU_status_of_condition (h : StatusCondition policy b a st) : (decU policy b a).status = st := by
  cases st with
  | ok =>
    obtain ⟨t, ht, hr⟩ := h
    rw [decU_of_firstTerminator ht hr]
  | incomplete =>
    obtain ⟨hlt, hn⟩ := h
    have ha : a < 10 := by omega
    rw [decU_of_noTerminator_of_lt_ten ha (Nat.min_eq_left ha.le ▸ hn)]
  | malformed =>
    rcases h with ⟨t, ht, hr⟩ | ⟨hten, hn⟩
    · rw [decU_of_tenthRejected ht hr]
    · have ha : 10 ≤ a := by omega
      rw [decU_of_noTerminator_of_ge_ten ha (hten ▸ hn)]

/-- A decode reports a status exactly under its condition: some condition holds, and each gives its own status. -/
theorem decU_status_eq_iff : (decU policy b a).status = st ↔ StatusCondition policy b a st := by
  refine ⟨?_, decU_status_of_condition⟩
  rintro rfl
  obtain ⟨st, hst⟩ := exists_statusCondition policy b a
  rwa [decU_status_of_condition hst]

end

/-- Settles O15: the three clauses are the conditions of the three statuses. -/
theorem decodeStatusByPriority : Obligations.DecodeStatusByPriority := fun _ _ _ =>
  ⟨decU_status_eq_iff, decU_status_eq_iff, decU_status_eq_iff⟩

/-! #### The blocks of a system (60_exceptions.md R101) -/

/-- An edge of the block at place `k` goes on exactly when that block's own step does, and writes that place
alone. A place with no block is no exception: `List.set` changes nothing there (log 13). -/
theorem stepInstance_eq_next_iff {k : Nat} {system a : List State} :
    stepInstance k system = .next a ↔ ∃ t, (∀ s, system[k]? = some s → step s = .next t) ∧ a = system.set k t := by
  unfold stepInstance
  cases hk : system[k]? with
  | none =>
    have hset (t : State) : system.set k t = system := List.set_eq_of_length_le (List.getElem?_eq_none_iff.1 hk)
    have : Nonempty State := ⟨State.reset⟩
    simp [hset, eq_comm]
  | some s => cases hs : step s <;> simp [hs, eq_comm]

/-- Settles O53: an edge reads and writes its own place alone, and writes to two places commute. -/
theorem instancesAreIndependent : Obligations.InstancesAreIndependent := by
  intro system a j k hjk hj
  obtain ⟨t, ht, rfl⟩ := stepInstance_eq_next_iff.1 hj
  refine ⟨List.getElem?_set_ne hjk, List.length_set, fun b hk => ?_⟩
  obtain ⟨u, hu, rfl⟩ := stepInstance_eq_next_iff.1 hk
  rw [List.getElem?_set_ne hjk] at hu
  refine ⟨system.set k u, stepInstance_eq_next_iff.2 ⟨u, hu, rfl⟩, stepInstance_eq_next_iff.2 ⟨t, ?_, ?_⟩⟩
  · rwa [List.getElem?_set_ne hjk.symm]
  · exact List.set_comm t u hjk

end Sys2Proof.Machine
end

section
/-! SUPPORT. What a run leaves and uses up, and the statements about reset sequences, unstable commands and the
issue spacing (70_reset_and_hazards.md R104, R108, R110). -/

namespace Sys2Proof.Machine

/-! #### The schedule along a run -/

/-- The next edge is the head of the schedule. -/
theorem nextEdge_of_edges_cons {s : State} {p : PortIn} {rest : List PortIn} (h : s.edges = p :: rest) :
    nextEdge s = p := by
  rw [nextEdge, h, List.headD_cons]

/-- What every run leaves and uses up, whatever it does (70_reset_and_hazards.md R106, log 3). -/
theorem runEdges_frame {n : Nat} {s t : State} (h : runEdges n s = .next t) :
    t.pTenth = s.pTenth ∧ t.edges = s.edges.drop n ∧ (s.wasReset = true → t.wasReset = true) := by
  induction n generalizing s with
  | zero =>
    cases h
    exact ⟨rfl, rfl, id⟩
  | succ n ih =>
    obtain ⟨u, hu, hn⟩ := runEdges_succ_next h
    obtain ⟨hpolicy, hedges, hreset⟩ := step_frame hu
    obtain ⟨hpolicy', hedges', hreset'⟩ := ih hn
    exact ⟨hpolicy'.trans hpolicy, by rw [hedges', hedges, List.drop_tail], hreset' ∘ hreset⟩

/-- After `n` edges the next one is entry `n` of the schedule. -/
theorem nextEdge_after_runEdges {n : Nat} {s t : State} (h : runEdges n s = .next t) :
    nextEdge t = s.edges.getD n PortIn.quiet := by
  obtain ⟨-, hedges, -⟩ := runEdges_frame h
  rw [nextEdge_eq_getD, hedges, getD_drop, Nat.add_zero]

/-- A run and one edge more. -/
theorem runEdges_succ_of_step {n : Nat} {s t u : State} (hrun : runEdges n s = .next t) (hstep : step t = .next u) :
    runEdges (n + 1) s = .next u :=
  (runEdges_add hrun).trans (runEdges_of_step hstep)

/-! #### Reset sequences (70_reset_and_hazards.md R104) -/

/-- A run of one or more edges with `rst` = 1 goes on from every state, and its last edge is a RESET. -/
theorem runEdges_resets {n : Nat} {s : State} (hr : ∀ k ≤ n, (s.edges.getD k PortIn.quiet).rst = true) :
    ∃ t, runEdges (n + 1) s = .next (applyReset t) := by
  induction n generalizing s with
  | zero => exact ⟨_, runEdges_of_step (step_of_rst (nextEdge_eq_getD s ▸ hr 0 le_rfl))⟩
  | succ n ih =>
    have hstep := step_of_rst (nextEdge_eq_getD s ▸ hr 0 (Nat.zero_le _))
    have hrest : ∀ k ≤ n, ((applyReset (dropEdge s)).edges.getD k PortIn.quiet).rst = true := fun k hk => by
      simpa only [applyReset_edges, dropEdge_edges, getD_tail] using hr (k + 1) (by omega)
    obtain ⟨t, ht⟩ := ih hrest
    exact ⟨t, (runEdges_of_step hstep).trans ht⟩

/-- Settles O41: the last reset edge leaves IDLE, and the schedule then stands at the command. -/
theorem resetSequenceReadiesTheBlock : Obligations.ResetSequenceReadiesTheBlock := by
  intro s resets p rest c he hne hrst hr hv hc
  obtain ⟨q, qs, rfl⟩ := List.exists_cons_of_ne_nil hne
  have hresets : ∀ k ≤ qs.length, (s.edges.getD k PortIn.quiet).rst = true := fun k hk => by
    have hlt : k < (q :: qs).length := Nat.lt_succ_of_le hk
    rw [he, List.getD_append _ _ _ _ hlt, List.getD_eq_getElem _ _ hlt]
    exact hrst _ (List.getElem_mem hlt)
  obtain ⟨t, hrun⟩ : ∃ t, runEdges (q :: qs).length s = .next (applyReset t) := runEdges_resets hresets
  have hnext : nextEdge (applyReset t) = p := by
    rw [nextEdge_after_runEdges hrun, he, List.getD_append_right _ _ _ _ le_rfl, Nat.sub_self, List.getD_cons_zero]
  have haccept := step_accept (s := applyReset t) rfl (hnext ▸ hr) rfl (hnext ▸ hv) (hnext ▸ hc)
  exact ⟨_, _, hrun, rfl, rfl, rfl, haccept, rfl, rfl⟩

/-! #### Unstable commands and the issue spacing (70_reset_and_hazards.md R108, R110) -/

/-- Settles O35. -/
theorem unstableCommandIsRefused : Obligations.UnstableCommandIsRefused := by
  intro s p rest hw he hr hp hv hc
  have hnext := nextEdge_of_edges_cons he
  exact step_accept_unstable hw (hnext ▸ hr) hp (hnext ▸ hv) (hnext ▸ hc)

/-- Settles O52: from ACCEPT to COMPLETE as `CompleteFallsOnThePLatEdge` says, then one edge of RELEASE and one
of ACCEPT. -/
theorem issueSpacing : Obligations.IssueSpacing := by
  intro s hw hp hhost
  obtain ⟨-, hv, hc, -⟩ := nextEdge_eq_getD s ▸ hhost 0 (by omega)
  obtain ⟨c, hc⟩ := Option.ne_none_iff_exists'.1 hc
  obtain ⟨hbusy, t, hdone, htp, -⟩ := completeFallsOnThePLatEdge s c hw hp hv hc fun k hk => (hhost k (by omega)).1
  obtain ⟨-, -, htw⟩ := runEdges_frame hdone
  obtain ⟨htr, -, -, hty⟩ := nextEdge_after_runEdges hdone ▸ hhost _ (by omega)
  have hrelease := runEdges_succ_of_step hdone (step_release (htw hw) htr htp hty)
  obtain ⟨hur, huv, huc, -⟩ := nextEdge_after_runEdges hrelease ▸ hhost _ le_rfl
  obtain ⟨d, hd⟩ := Option.ne_none_iff_exists'.1 huc
  have haccept := runEdges_succ_of_step hrelease (step_accept (htw hw) hur rfl huv hd)
  refine ⟨fun k hk => ?_, ⟨t, hdone, htp⟩, ⟨_, hrelease, rfl⟩, ⟨_, haccept, rfl⟩⟩
  obtain ⟨u, hrun, hup, -⟩ := hbusy k hk
  exact ⟨u, hrun, hup⟩

end Sys2Proof.Machine
end
